-- ==== Sys2Proof/Word.lean ====
section
/-! DEFINITION. The two widths of the block (00_scope.md R8): all values are unsigned bit vectors. -/

namespace Sys2Proof

/-- A byte: the source's `u8`, and one location of BUF or PAY. -/
abbrev Byte := BitVec 8

/-- A 16-bit value: the source's `u16`. -/
abbrev Half := BitVec 16

end Sys2Proof
end

