-- ==== Sys2Proof/Config.lean ====
section
/-! DEFINITION. The build-time parameters of 00_scope.md R6. The source fixes none of them; R6 gives each a default. -/

namespace Sys2Proof

/-- The checksum functions `CRC8_FN`, `CRC16_FN` are open (R6, R71, decision D3). A build has either the spec's default
instance, or functions the spec does not give.
PRESUMED (the default instance is general knowledge, 93_implementation_defined.md G1, G2); log 2. -/
inductive ChecksumInstance where
  /-- `TELLO_CRC8` and `TELLO_CRC16`, R76 and R79. -/
  | tello
  /-- the vehicle's own functions, of which only R72 is known: `Config.vehicleCrc8`, `Config.vehicleCrc16` -/
  | vehicle
deriving DecidableEq, Repr

/-- Free value: the 8-bit checksum function the source does not give (R71 to R73). It has no body, so what is proved of
it holds for every total function of the byte sequence; log 3. -/
opaque Config.vehicleCrc8 : List Byte → Byte

/-- Free value: the 16-bit checksum function the source does not give (R71 to R73); log 3. -/
opaque Config.vehicleCrc16 : List Byte → Half

/-- The parameters of R6 as plain data. They are carried in the state so that every statement about a state is a
statement about every build; DESIGN CHOICE, log 1. -/
structure Params where
  /-- `BUF_CAP`, the capacity of BUF in bytes -/
  bufCap : Nat
  /-- `MAX_PAYLOAD`, the greatest payload of ENCODE and the capacity of PAY -/
  maxPayload : Nat
  /-- `HAS_AUX`: CLASSIFY, HSREQ, DISPATCH and FLIGHTDATA exist -/
  hasAux : Bool
  /-- which functions `CRC8_FN` and `CRC16_FN` are -/
  checksums : ChecksumInstance
deriving DecidableEq, Repr

/-- The constraints R6 puts on the parameters. -/
abbrev Params.Wf (p : Params) : Prop :=
  11 ≤ p.bufCap ∧ p.bufCap ≤ 65535 ∧ 11 + p.maxPayload ≤ p.bufCap ∧ p.maxPayload ≤ 8180

/-- R6's column "default (spec's choice)". -/
def Params.default : Params :=
  { bufCap := 2048, maxPayload := 1450, hasAux := true, checksums := .tello }

end Sys2Proof
end

