-- ==== Sys2Proof/Machine/Checksum.lean ====
section
/-! DEFINITION. The checksum functions (40_checksum.md): the default instance TELLO_CRC8 and TELLO_CRC16 in its
table-driven form, its tables, its bit-serial form, and the parameters CRC8_FN and CRC16_FN of a build.
PRESUMED: the instance is general knowledge (G1, G2); log 2. -/

namespace Sys2Proof

/-- One bit of R77 and R78: shift right, and exclusive-or the reflected polynomial 0x8C if the bit shifted out is 1. -/
def crc8Shift (c : Byte) : Byte := if c.getLsbD 0 then (c >>> 1) ^^^ 0x8C#8 else c >>> 1

/-- `crc8Shift` repeated. -/
def crc8Shifts : Nat → Byte → Byte
  | 0, c => c
  | n + 1, c => crc8Shifts n (crc8Shift c)

/-- The entry of table T8 at an index, by the generating rule (R77). -/
def t8 (i : Byte) : Byte := crc8Shifts 8 i

/-- The table T8: 256 entries (R77). A constant, not state (R19). -/
def t8Table : List Byte := (List.range 256).map fun i => t8 (BitVec.ofNat 8 i)

/-- TELLO_CRC8, table-driven (R76): one look-up a byte, in ascending offset. -/
def telloCrc8 (s : List Byte) : Byte := s.foldl (fun c b => t8 (c ^^^ b)) 0x77#8

/-- TELLO_CRC8, bit-serial (R78). -/
def telloCrc8Serial (s : List Byte) : Byte := s.foldl (fun c b => crc8Shifts 8 (c ^^^ b)) 0x77#8

/-- One bit of R80 and R81, with the reflected polynomial 0x8408. -/
def crc16Shift (c : Half) : Half := if c.getLsbD 0 then (c >>> 1) ^^^ 0x8408#16 else c >>> 1

/-- `crc16Shift` repeated. -/
def crc16Shifts : Nat → Half → Half
  | 0, c => c
  | n + 1, c => crc16Shifts n (crc16Shift c)

/-- The entry of table T16 at an index, by the generating rule (R80). -/
def t16 (i : Byte) : Half := crc16Shifts 8 (i.setWidth 16)

/-- The table T16: 256 entries (R80). A constant, not state (R19). -/
def t16Table : List Half := (List.range 256).map fun i => t16 (BitVec.ofNat 8 i)

/-- One byte of R79: `T16[(c ^ b) & 0xFF] ^ (c >> 8)`. -/
def crc16Byte (c : Half) (b : Byte) : Half := t16 ((c ^^^ b.setWidth 16).setWidth 8) ^^^ (c >>> 8)

/-- TELLO_CRC16, table-driven (R79). -/
def telloCrc16 (s : List Byte) : Half := s.foldl crc16Byte 0x3692#16

/-- TELLO_CRC16, bit-serial (R81). -/
def telloCrc16Serial (s : List Byte) : Half := s.foldl (fun c b => crc16Shifts 8 (c ^^^ b.setWidth 16)) 0x3692#16

/-- `CRC8_FN` of a build (R6, R71): a total function of the byte sequence alone (R72). -/
def Params.crc8 (p : Params) (s : List Byte) : Byte :=
  match p.checksums with
  | .tello => telloCrc8 s
  | .vehicle => Config.vehicleCrc8 s

/-- `CRC16_FN` of a build (R6, R71, R72). -/
def Params.crc16 (p : Params) (s : List Byte) : Half :=
  match p.checksums with
  | .tello => telloCrc16 s
  | .vehicle => Config.vehicleCrc16 s

end Sys2Proof
end

