-- ==== Sys2Proof/Syntax.lean ====
section
/-! DEFINITION. One constructor per row of spec/opcode_table.json: the eight operations and the illegal row of the
operation select code (30_encoding.md R66), and the nine wire-format rows. The operations have no operand fields: their
operands are registers (10_state.md R13). A wire-format row carries the fields its pattern of bits names. -/

namespace Sys2Proof

/-- The rows of the table. -/
inductive Instr where
  /-- CRC8, code 0x01, R74 -/
  | crc8
  /-- CRC16, code 0x02, R75 -/
  | crc16
  /-- DECODE, code 0x03, R87 -/
  | decode
  /-- ENCODE, code 0x04, R107 -/
  | encode
  /-- CLASSIFY, code 0x05, R121 -/
  | classify
  /-- HSREQ, code 0x06, R123 -/
  | hsreq
  /-- DISPATCH, code 0x07, R126 -/
  | dispatch
  /-- FLIGHTDATA, code 0x08, R128 -/
  | flightdata
  /-- ILLEGAL: every code that none of the eight rows above has, R66 -/
  | illegal (code : Byte)
  /-- GRAM_HEADER, the nine bytes of the fixed header, R53: total length, the three low bits of the size field, crc8,
  the discriminator's four fields, id, sequence -/
  | gramHeader (len : BitVec 13) (low : BitVec 3) (crc8 : Byte) (fromDrone toDrone : BitVec 1) (kind subtype : BitVec 3)
      (id seq : Half)
  /-- GRAM_TODRONE, the only header ENCODE produces, R107 -/
  | gramTodrone (len : BitVec 13) (crc8 : Byte) (kind : BitVec 3) (id seq : Half)
  /-- GRAM_KEEPALIVE, the eleven bytes of the keepalive gram, R114 -/
  | gramKeepalive (crc8 : Byte) (seq crc16 : Half)
  /-- MSG_CONNECT_ACK_ECHO, message id 0x0002, R126 -/
  | msgConnectAckEcho
  /-- MSG_KEEPALIVE, message id 0x0025, R59 -/
  | msgKeepalive
  /-- MSG_FLIGHT_DATA, message id 0x0056, R126 -/
  | msgFlightData
  /-- HS_CONN_REQ, the outbound handshake message, R60 -/
  | hsConnReq (port : Half)
  /-- HS_CONN_ACK, the prefix of the inbound acknowledgement, R121 -/
  | hsConnAck
  /-- FLIGHT_DATA_PAYLOAD, R61: the three named fields and the unnamed bytes at payload offsets 2 to 11, 13 to 19 and
  21 to 23 -/
  | flightDataPayload (height : Half) (battery camera : Byte) (gap2 gap13 gap21 : List Byte)
deriving DecidableEq, Repr

end Sys2Proof
end

