-- ==== Sys2Proof/WellFormed.lean ====
section
/-! DEFINITION. Which terms of `Instr` stand for words of the table's rows. -/

namespace Sys2Proof

/-- One check per row that needs one: the illegal row has no code of the eight operations (R66); GRAM_HEADER is the row
of a header that is not the more special GRAM_TODRONE (R53, R107; log 14); the unnamed parts of a flight-data payload
have 10, 7 and 3 bytes (R61). Every other field is held to its width by its type. -/
def Instr.WellFormed : Instr → Bool
  | .crc8 => true
  | .crc16 => true
  | .decode => true
  | .encode => true
  | .classify => true
  | .hsreq => true
  | .dispatch => true
  | .flightdata => true
  | .illegal code => code == 0x00#8 || 0x08#8 < code
  | .gramHeader _ low _ f d _ sub _ _ => !(low == 0 && f == 0 && d == 1 && sub == 0)
  | .gramTodrone _ _ _ _ _ => true
  | .gramKeepalive _ _ _ => true
  | .msgConnectAckEcho => true
  | .msgKeepalive => true
  | .msgFlightData => true
  | .hsConnReq _ => true
  | .hsConnAck => true
  | .flightDataPayload _ _ _ a b c => a.length == 10 && b.length == 7 && c.length == 3

end Sys2Proof
end

