-- ==== Sys2Proof/Decode.lean ====
section
/-! DEFINITION. The byte helpers (00_scope.md R8, 20_memory.md R30 to R34), the fixed constants (R7), the decoder of the
table's rows and the encoder. Offset 0 of a list of bytes is its head. -/

namespace Sys2Proof

/-! ### Bytes and halves -/

/-- `le16(lo, hi) = lo | (hi << 8)`, the concatenation `{hi, lo}` (R8, R180). -/
def le16 (lo hi : Byte) : Half := hi ++ lo

/-- `v[7:0]` -/
def lowByte (v : Half) : Byte := v.extractLsb' 0 8

/-- `v[15:8]` -/
def highByte (v : Half) : Byte := v.extractLsb' 8 8

/-- A 16-bit field as stored: low byte at the lower offset (R30 to R32). -/
def halfBytes (v : Half) : List Byte := [lowByte v, highByte v]

/-- The byte at an offset of a byte sequence. Used only below the sequence's length. -/
def byteAt (b : List Byte) (i : Nat) : Byte := b.getD i 0

/-! ### The fixed constants of R7 -/

/-- the gram magic -/
abbrev gramMagic : Byte := 0xCC
/-- 9 header bytes and 2 trailing checksum bytes -/
abbrev fixedBytes : Nat := 11
/-- offset of the payload in a gram -/
abbrev payloadOffset : Nat := 9
/-- length of a flight-data payload -/
abbrev flightLength : Nat := 24
/-- length of the two handshake prefixes -/
abbrev prefixLength : Nat := 9
/-- message id of the connect-ack echo (R59) -/
abbrev connectAckEchoId : Half := 0x0002
/-- message id of the keepalive / video request (R59) -/
abbrev keepaliveId : Half := 0x0025
/-- message id of flight telemetry (R59) -/
abbrev flightDataId : Half := 0x0056
/-- ASCII "conn_req:" (R60; the codes are general knowledge, log 25) -/
def connReqPrefix : List Byte := [0x63, 0x6F, 0x6E, 0x6E, 0x5F, 0x72, 0x65, 0x71, 0x3A]
/-- ASCII "conn_ack:" (R60; log 25) -/
def connAckPrefix : List Byte := [0x63, 0x6F, 0x6E, 0x6E, 0x5F, 0x61, 0x63, 0x6B, 0x3A]

/-! ### Decoding -/

/-- Why a list of bytes is no row of the table. -/
inductive DecodeError where
  /-- no row has this many bytes -/
  | noSuchLength (n : Nat)
  /-- a 16-bit message id the source does not name (R59) -/
  | unknownMessageId (id : Half)
  /-- nine bytes that begin neither with the magic nor with "conn_ack:" (R53, R121) -/
  | unknownWire72
  /-- eleven bytes that are neither a keepalive gram nor a "conn_req:" message (R114, R60) -/
  | unknownWire88
deriving DecidableEq, Repr

/-- The operation select code (R66): the whole byte is the opcode, and every code not matched is the illegal row. -/
def decodeOp (code : Byte) : Instr :=
  if code = 0x01#8 then .crc8
  else if code = 0x02#8 then .crc16
  else if code = 0x03#8 then .decode
  else if code = 0x04#8 then .encode
  else if code = 0x05#8 then .classify
  else if code = 0x06#8 then .hsreq
  else if code = 0x07#8 then .dispatch
  else if code = 0x08#8 then .flightdata
  else .illegal code

/-- The named message ids (R59). -/
def decodeId (id : Half) : Except DecodeError Instr :=
  if id = connectAckEchoId then .ok .msgConnectAckEcho
  else if id = keepaliveId then .ok .msgKeepalive
  else if id = flightDataId then .ok .msgFlightData
  else .error (.unknownMessageId id)

/-- The bit pattern of R53 taken apart. -/
def headerFields (b : List Byte) : Instr :=
  .gramHeader (byteAt b 2 ++ (byteAt b 1).extractLsb' 3 5) ((byteAt b 1).extractLsb' 0 3) (byteAt b 3)
    ((byteAt b 4).extractLsb' 7 1) ((byteAt b 4).extractLsb' 6 1) ((byteAt b 4).extractLsb' 3 3)
    ((byteAt b 4).extractLsb' 0 3) (le16 (byteAt b 5) (byteAt b 6)) (le16 (byteAt b 7) (byteAt b 8))

/-- Nine bytes: the acknowledgement prefix, the header ENCODE produces, any other header. -/
def decodeWire72 (b : List Byte) : Except DecodeError Instr :=
  if b = connAckPrefix then .ok .hsConnAck
  else if byteAt b 0 = gramMagic then
    if (byteAt b 1).extractLsb' 0 3 = 0#3 ∧ (byteAt b 4).extractLsb' 6 2 = 1#2 ∧ (byteAt b 4).extractLsb' 0 3 = 0#3 then
      .ok (.gramTodrone (byteAt b 2 ++ (byteAt b 1).extractLsb' 3 5) (byteAt b 3) ((byteAt b 4).extractLsb' 3 3)
        (le16 (byteAt b 5) (byteAt b 6)) (le16 (byteAt b 7) (byteAt b 8)))
    else .ok (headerFields b)
  else .error .unknownWire72

/-- Eleven bytes: the handshake request or the keepalive gram. -/
def decodeWire88 (b : List Byte) : Except DecodeError Instr :=
  if b.take prefixLength = connReqPrefix then .ok (.hsConnReq (le16 (byteAt b 9) (byteAt b 10)))
  else if b.take 3 = [gramMagic, 0x58, 0x00] ∧ (b.drop 4).take 3 = [0x60, 0x25, 0x00] then
    .ok (.gramKeepalive (byteAt b 3) (le16 (byteAt b 7) (byteAt b 8)) (le16 (byteAt b 9) (byteAt b 10)))
  else .error .unknownWire88

/-- Twenty-four bytes: a flight-data payload (R61). -/
def decodeWire192 (b : List Byte) : Instr :=
  .flightDataPayload (le16 (byteAt b 0) (byteAt b 1)) (byteAt b 12) (byteAt b 20)
    ((b.drop 2).take 10) ((b.drop 13).take 7) ((b.drop 21).take 3)

/-- A wire-format row from its bytes in wire order. -/
def decodeMessage (b : List Byte) : Except DecodeError Instr :=
  if b.length = 2 then decodeId (le16 (byteAt b 0) (byteAt b 1))
  else if b.length = 9 then decodeWire72 b
  else if b.length = 11 then decodeWire88 b
  else if b.length = 24 then .ok (decodeWire192 b)
  else .error (.noSuchLength b.length)

/-- The whole table: one byte is an operation select code, anything longer a wire format (log 14). -/
def decode (b : List Byte) : Except DecodeError Instr :=
  if b.length = 1 then .ok (decodeOp (byteAt b 0)) else decodeMessage b

/-! ### Encoding, from the same tables -/

/-- Offsets 0 to 8 of a gram from the fields of R53. -/
def headerBytes (len : BitVec 13) (low : BitVec 3) (crc8 : Byte) (f d : BitVec 1) (kind sub : BitVec 3) (id seq : Half) :
    List Byte :=
  [gramMagic, len.extractLsb' 0 5 ++ low, len.extractLsb' 5 8, crc8, f ++ d ++ kind ++ sub] ++ halfBytes id ++ halfBytes seq

/-- The bytes of a well-formed row, in wire order. -/
def encode : Instr → List Byte
  | .crc8 => [0x01]
  | .crc16 => [0x02]
  | .decode => [0x03]
  | .encode => [0x04]
  | .classify => [0x05]
  | .hsreq => [0x06]
  | .dispatch => [0x07]
  | .flightdata => [0x08]
  | .illegal code => [code]
  | .gramHeader len low crc8 f d kind sub id seq => headerBytes len low crc8 f d kind sub id seq
  | .gramTodrone len crc8 kind id seq => headerBytes len 0 crc8 0 1 kind 0 id seq
  | .gramKeepalive crc8 seq crc16 =>
      [gramMagic, 0x58, 0x00, crc8, 0x60] ++ halfBytes keepaliveId ++ halfBytes seq ++ halfBytes crc16
  | .msgConnectAckEcho => halfBytes connectAckEchoId
  | .msgKeepalive => halfBytes keepaliveId
  | .msgFlightData => halfBytes flightDataId
  | .hsConnReq port => connReqPrefix ++ halfBytes port
  | .hsConnAck => connAckPrefix
  | .flightDataPayload height battery camera gap2 gap13 gap21 =>
      halfBytes height ++ gap2 ++ [battery] ++ gap13 ++ [camera] ++ gap21

/-! ### The table's numbering -/

/-- The `n` bytes of a number, least significant first. -/
def bytesOfNat : Nat → Nat → List Byte
  | 0, _ => []
  | n + 1, w => BitVec.ofNat 8 w :: bytesOfNat n (w / 256)

/-- The bytes of an instruction that spec/opcode_table.json numbers `w`: bit 0 is the least significant bit of the first
byte. The one number the table writes the other way round is the 72-bit match of HS_CONN_ACK, first byte most
significant; it is read as it is written (log 15). -/
def tableBytes (nbits w : Nat) : List Byte :=
  if nbits = 72 ∧ w = 0x636F6E6E5F61636B3A then connAckPrefix else bytesOfNat ((nbits + 7) / 8) w

/-- What the decoder reads from the table's number of an instruction. -/
def decodeTableWord (nbits w : Nat) : Option Instr :=
  match decode (tableBytes nbits w) with
  | .ok i => some i
  | .error _ => none

end Sys2Proof
end

