-- ==== Sys2Proof/Machine/Codec.lean ====
section
/-! DEFINITION. The functional layer (00_scope.md R2a): the gram decoder and encoder for any two checksum functions, the
handshake prefix test and request builder, the message-id dispatch and the flight-data unpack. Pure functions of byte
sequences; the device operations use them. -/

namespace Sys2Proof

/-- The decoded direction (R54). -/
inductive Direction where
  | unknown
  | toDrone
  | fromDrone
deriving DecidableEq, Repr

/-- A decoded gram (R86). -/
structure Gram where
  header : Byte
  sizeField : Half
  size : Half
  crc8 : Byte
  discriminator : Byte
  direction : Direction
  kind : BitVec 3
  subtype : BitVec 3
  id : Half
  sequence : Half
  payload : List Byte
  crc16 : Half
deriving DecidableEq, Repr

/-- The errors of `decode` (R85). -/
inductive GramError where
  | tooShort
  | sizeMismatch
  | checksumInvalid
deriving DecidableEq, Repr

/-- The classes of a message id (R126). -/
inductive MessageClass where
  | unhandled
  | connectAckEcho
  | flightData
deriving DecidableEq, Repr

/-- A decoded flight-data payload (R61). -/
structure FlightData where
  height : Half
  battery : Byte
  camera : Byte
deriving DecidableEq, Repr

/-- The error of `decode_flight_data` (R128). -/
inductive TelemetryError where
  | lengthMismatch
deriving DecidableEq, Repr

/-! ### Fields -/

/-- The direction of a discriminator: bit 7 is tested first (R54; both bits set is decision D14, log 17). -/
def directionOf (d : Byte) : Direction :=
  if d.getLsbD 7 then .fromDrone else if d.getLsbD 6 then .toDrone else .unknown

/-- `d[5:3]` (R55) -/
def kindOf (d : Byte) : BitVec 3 := d.extractLsb' 3 3

/-- `d[2:0]` (R55) -/
def subtypeOf (d : Byte) : BitVec 3 := d.extractLsb' 0 3

/-- The discriminator ENCODE builds: `0x40 | ((KIND << 3) & 0x38)` (R56). -/
def discriminatorFor (kind : Byte) : Byte := 0x40#8 ||| ((kind <<< 3) &&& 0x38#8)

/-- `size_field >> 3`, the total length a size field stands for (R57). -/
def lengthOf (sf : Half) : Half := sf >>> 3

/-- `L << 3` in 16 bits (R57). -/
def sizeFieldFor (len : Nat) : Half := BitVec.ofNat 16 len <<< 3

/-! ### Decode -/

/-- The fields of a gram that fills the byte sequence (R86, R45): the trailing checksum is its last two bytes. -/
def unpackGram (b : List Byte) : Gram :=
  let sf := le16 (byteAt b 1) (byteAt b 2)
  { header := byteAt b 0
    sizeField := sf
    size := lengthOf sf
    crc8 := byteAt b 3
    discriminator := byteAt b 4
    direction := directionOf (byteAt b 4)
    kind := kindOf (byteAt b 4)
    subtype := subtypeOf (byteAt b 4)
    id := le16 (byteAt b 5) (byteAt b 6)
    sequence := le16 (byteAt b 7) (byteAt b 8)
    payload := (b.take (b.length - 2)).drop payloadOffset
    crc16 := le16 (byteAt b (b.length - 2)) (byteAt b (b.length - 1)) }

/-- The total length that the size field of a gram stands for (R86). -/
def gramLength (b : List Byte) : Nat := (lengthOf (le16 (byteAt b 1) (byteAt b 2))).toNat

/-- `F_decode(b, n)` (R86), for `n` at most the length of `b`. -/
def decodeGram (c8 : List Byte → Byte) (c16 : List Byte → Half) (b : List Byte) (n : Nat) : Except GramError Gram :=
  if n < fixedBytes then .error .tooShort
  else if n < gramLength b ∨ gramLength b < fixedBytes then .error .sizeMismatch
  else if c8 (b.take 3) ≠ byteAt b 3 then .error .checksumInvalid
  else if c16 (b.take (gramLength b - 2)) ≠ le16 (byteAt b (gramLength b - 2)) (byteAt b (gramLength b - 1)) then
    .error .checksumInvalid
  else .ok (unpackGram (b.take (gramLength b)))

/-! ### Encode -/

/-- Offsets 0 to 2 of a gram of total length `len`: the magic and the size field (R106). -/
def shortHeader (len : Nat) : List Byte := gramMagic :: halfBytes (sizeFieldFor len)

/-- `F_encode` up to the trailing checksum (R106): the bytes the 16-bit checksum covers. -/
def encodeBody (c8 : List Byte → Byte) (kind : Byte) (id seq : Half) (p : List Byte) : List Byte :=
  let short := shortHeader (fixedBytes + p.length)
  short ++ [c8 short, discriminatorFor kind] ++ halfBytes id ++ halfBytes seq ++ p

/-- `F_encode(kind, id, seq, p)` (R106), for a payload of at most 8180 bytes. -/
def encodeGram (c8 : List Byte → Byte) (c16 : List Byte → Half) (kind : Byte) (id seq : Half) (p : List Byte) :
    List Byte :=
  encodeBody c8 kind id seq p ++ halfBytes (c16 (encodeBody c8 kind id seq p))

/-! ### Handshake, dispatch, telemetry -/

/-- The handshake prefix test (R121): the first nine of `n` received bytes equal "conn_ack:". -/
def isHandshakeAck (b : List Byte) (n : Nat) : Bool := prefixLength ≤ n && b.take prefixLength == connAckPrefix

/-- The outbound handshake message (R60, R123). -/
def handshakeRequest (port : Half) : List Byte := connReqPrefix ++ halfBytes port

/-- The dispatch table (R126). -/
def classOfId (id : Half) : MessageClass :=
  if id = flightDataId then .flightData else if id = connectAckEchoId then .connectAckEcho else .unhandled

/-- `decode_flight_data` (R128). -/
def decodeFlightData (p : List Byte) : Except TelemetryError FlightData :=
  if p.length ≠ flightLength then .error .lengthMismatch
  else .ok { height := le16 (byteAt p 0) (byteAt p 1), battery := byteAt p 12, camera := byteAt p 20 }

end Sys2Proof
end

