-- ==== Sys2Proof/Machine/Flags.lean ====
section
/-! DEFINITION. The block has no flags (10_state.md R20); its one status indication is STATUS. Here are the codes of
STATUS (R15, R141) and of the result registers that hold a name (R14, decision D9). -/

namespace Sys2Proof.Machine

/-- The statuses of R15. -/
inductive Status where
  | ok
  | tooShort
  | sizeMismatch
  | checksumInvalid
  | lengthMismatch
  | badOperand
  | illegalOp
deriving DecidableEq, Repr

/-- The code of a status (R15). -/
def Status.code : Status → Byte
  | .ok => 0
  | .tooShort => 1
  | .sizeMismatch => 2
  | .checksumInvalid => 3
  | .lengthMismatch => 4
  | .badOperand => 5
  | .illegalOp => 6

/-- The status that reports a decode error (R141). -/
def statusOfGramError : GramError → Status
  | .tooShort => .tooShort
  | .sizeMismatch => .sizeMismatch
  | .checksumInvalid => .checksumInvalid

/-- The code of a direction in G_DIR (R14). -/
def directionCode : Direction → BitVec 2
  | .unknown => 0
  | .toDrone => 1
  | .fromDrone => 2

/-- The code of a message class in DCLASS (R14). -/
def classCode : MessageClass → BitVec 2
  | .unhandled => 0
  | .connectAckEcho => 1
  | .flightData => 2

end Sys2Proof.Machine
end

