-- ==== Sys2Proof/Machine/State.lean ====
section
/-! DEFINITION. The state of one instance of the block (10_state.md), as plain data, and the reasons a step can stop.
Every register is an Option because the spec gives it the state `none` (R13, R16): reset leaves it (R23) and a failed
operation writes it (R146). Log 4. -/

namespace Sys2Proof.Machine

/-- The two memories (R17, R18). -/
inductive MemName where
  | buf
  | pay
deriving DecidableEq, Repr

/-- The registers by name (R13, R14). -/
inductive Reg where
  | op | start | count | rlen | kind | mid | seq | plen | port
  | status | crc8Out | crc16Out
  | gHeader | gSizef | gSize | gCrc8 | gDisc | gDir | gType | gSubtype | gId | gSeq | gPoff | gPlen | gCrc16
  | elen | cls | dclass | fHeight | fBatt | fCam
deriving DecidableEq, Repr

/-- One access of the host (R40, R68, R156): the host's alphabet. Operand registers are written at their own widths;
there is no access that writes a result register (R14). Log 8. -/
inductive HostAction where
  /-- `START <- v` -/
  | setStart (v : Half)
  /-- `COUNT <- v` -/
  | setCount (v : Half)
  /-- `RLEN <- v` -/
  | setRlen (v : Half)
  /-- `KIND <- v` -/
  | setKind (v : Byte)
  /-- `MID <- v` -/
  | setMid (v : Half)
  /-- `SEQ <- v` -/
  | setSeq (v : Half)
  /-- `PLEN <- v` -/
  | setPlen (v : Half)
  /-- `PORT <- v` -/
  | setPort (v : Half)
  /-- the write of a code to OP, which issues the operation (R15, R25) -/
  | issue (code : Byte)
  /-- `BUF[a..b) <- bytes` or `PAY[a..b) <- bytes` (R68) -/
  | writeBytes (m : MemName) (a : Nat) (bytes : List Byte)
  /-- the bytes of a wire-format row of the table, put where the format has them in BUF (R38, R68; log 13) -/
  | place (bytes : List Byte)
  /-- the host reads a register -/
  | readReg (r : Reg)
  /-- the host reads one byte of a memory -/
  | readByte (m : MemName) (i : Nat)
  /-- the host resets the block (R165, R166) -/
  | reset
deriving DecidableEq, Repr

/-- A byte memory: the bytes that hold a value, by index, strictly rising. A byte not listed holds `none`. -/
abbrev Memory := List Host.Cell

/-- The operand registers of R13. -/
structure OperandRegs where
  op : Option Byte
  start : Option Half
  count : Option Half
  rlen : Option Half
  kind : Option Byte
  mid : Option Half
  seq : Option Half
  plen : Option Half
  port : Option Half
deriving DecidableEq, Repr

/-- The thirteen result registers of DECODE, R14. -/
structure GramRegs where
  header : Option Byte
  sizef : Option Half
  size : Option Half
  crc8 : Option Byte
  disc : Option Byte
  dir : Option (BitVec 2)
  kind : Option (BitVec 3)
  subtype : Option (BitVec 3)
  id : Option Half
  seq : Option Half
  poff : Option Half
  plen : Option Half
  crc16 : Option Half
deriving DecidableEq, Repr

/-- The three result registers of FLIGHTDATA, R14. -/
structure FlightRegs where
  height : Option Half
  batt : Option Byte
  cam : Option Byte
deriving DecidableEq, Repr

/-- The state: the parameters of the build (not software-visible, log 1), the registers, the two memories, the host's
accesses still to come (log 8), and what the host's last read returned (log 10). -/
structure State where
  params : Params
  operands : OperandRegs
  status : Option Byte
  crc8Out : Option Byte
  crc16Out : Option Half
  gram : GramRegs
  elen : Option Half
  cls : Option (BitVec 1)
  dclass : Option (BitVec 2)
  flight : FlightRegs
  buf : Memory
  pay : Memory
  pending : List HostAction
  hostRead : Option Half
deriving DecidableEq, Repr

/-- Why the machine stops with a fault. -/
inductive Fault where
  /-- Raised by an access to an index of BUF or PAY that does not exist (R9, R17, R18): by a host access only, as long
  as the parameters meet R6. Safe: the model stops where the spec defines nothing. Log 12. -/
  | outOfRange (m : MemName) (index : Nat)
deriving DecidableEq, Repr

/-- Why a step has no outcome. -/
inductive Refusal where
  /-- An instruction that has no meaning yet. Raised by exec's refused arms only, of which there are none. Safe. -/
  | notModelled (mnemonic : String)
  /-- A read, by the engine or the host, of a register that holds `none`: "a model refuses it (gives it no outcome)"
  (R16, R25). Safe. -/
  | noRegisterValue (r : Reg)
  /-- A read, by the engine or the host, of a byte of memory that holds `none` (R16, R25). Safe. -/
  | noByteValue (m : MemName) (index : Nat)
  /-- A host read of OP, which is write-only for the host (R15). Safe. Log 11. -/
  | writeOnlyRegister (r : Reg)
  /-- The host places bytes that are no wire-format row of the table; it can write such bytes with `writeBytes`. Safe.
  Log 22. -/
  | noSuchRow (e : DecodeError)
deriving DecidableEq, Repr

/-- The outcomes of a step. -/
abbrev Out := Host.Outcome State Fault Refusal

/-- Every operand register holds `none` (R23). -/
def OperandRegs.none : OperandRegs :=
  { op := .none, start := .none, count := .none, rlen := .none, kind := .none, mid := .none, seq := .none,
    plen := .none, port := .none }

/-- Every `G_*` register holds `none` (R23, R96). -/
def GramRegs.none : GramRegs :=
  { header := .none, sizef := .none, size := .none, crc8 := .none, disc := .none, dir := .none, kind := .none,
    subtype := .none, id := .none, seq := .none, poff := .none, plen := .none, crc16 := .none }

/-- Every `F_*` register holds `none` (R23, R128). -/
def FlightRegs.none : FlightRegs :=
  { height := .none, batt := .none, cam := .none }

/-- A block of the given build right after reset: every register and every byte of BUF and PAY holds `none` (R23). -/
def State.resetWith (p : Params) : State :=
  { params := p, operands := .none, status := .none, crc8Out := .none, crc16Out := .none, gram := .none, elen := .none,
    cls := .none, dclass := .none, flight := .none, buf := [], pay := [], pending := [], hostRead := .none }

/-- The machine right after reset (R23, R165), built with R6's default parameters; the host has made no access. -/
def State.reset : State := .resetWith .default

end Sys2Proof.Machine
end

