-- ==== Sys2Proof/Machine/Ops.lean ====
section
/-! DEFINITION. The named operations: one update per field of the state, the byte memories, the registers by name, and
the one way an operation ends with a status (60_exceptions.md R146), which is what the block has in the place of taking an
exception (R140) and returning from one (R145). -/

namespace Sys2Proof.Machine

/-! ### One update per field -/

def State.setOperands (s : State) (v : OperandRegs) : State := { s with operands := v }
def State.setStatus (s : State) (v : Option Byte) : State := { s with status := v }
def State.setCrc8Out (s : State) (v : Option Byte) : State := { s with crc8Out := v }
def State.setCrc16Out (s : State) (v : Option Half) : State := { s with crc16Out := v }
def State.setGram (s : State) (v : GramRegs) : State := { s with gram := v }
def State.setElen (s : State) (v : Option Half) : State := { s with elen := v }
def State.setCls (s : State) (v : Option (BitVec 1)) : State := { s with cls := v }
def State.setDclass (s : State) (v : Option (BitVec 2)) : State := { s with dclass := v }
def State.setFlight (s : State) (v : FlightRegs) : State := { s with flight := v }
def State.setBuf (s : State) (v : Memory) : State := { s with buf := v }
def State.setPay (s : State) (v : Memory) : State := { s with pay := v }
def State.setPending (s : State) (v : List HostAction) : State := { s with pending := v }
def State.setHostRead (s : State) (v : Option Half) : State := { s with hostRead := v }

/-! ### A byte memory -/

/-- What a byte that is not listed reads as: it holds `none` (R16, R23; log 5). -/
def Memory.unlisted : Option Byte := none

/-- The byte at an index, or `none` (R16, R36). -/
def Memory.read : Memory → Nat → Option Byte
  | [], _ => Memory.unlisted
  | (k, v) :: t, a => if k = a then some v else Memory.read t a

/-- Write one byte, keeping the indices strictly rising (R36). -/
def Memory.write : Memory → Nat → Byte → Memory
  | [], a, v => [(a, v)]
  | (k, w) :: t, a, v =>
    if a < k then (a, v) :: (k, w) :: t
    else if a = k then (a, v) :: t
    else (k, w) :: Memory.write t a v

/-- Write a byte sequence from an index upward. -/
def Memory.writeBytes : Memory → Nat → List Byte → Memory
  | m, _, [] => m
  | m, a, v :: vs => Memory.writeBytes (Memory.write m a v) (a + 1) vs

/-- `n` bytes from index `a` upward, or the first index whose byte holds `none` (R9, R16). -/
def Memory.readBytes (m : Memory) : Nat → Nat → Except Nat (List Byte)
  | _, 0 => .ok []
  | a, n + 1 =>
    match Memory.read m a with
    | none => .error a
    | some v =>
      match Memory.readBytes m (a + 1) n with
      | .error i => .error i
      | .ok vs => .ok (v :: vs)

/-- The canonical form: strictly rising indices. An entry always holds a value, so none equals what an unlisted byte
reads as. -/
def Memory.wf : Memory → Bool
  | [] => true
  | [_] => true
  | (k, _) :: (k', v) :: t => k < k' && Memory.wf ((k', v) :: t)

/-- The capacity of a memory (R17, R18). -/
def capacity (p : Params) : MemName → Nat
  | .buf => p.bufCap
  | .pay => p.maxPayload

/-- The memory of a name. -/
def State.mem (s : State) : MemName → Memory
  | .buf => s.buf
  | .pay => s.pay

/-- Replace the memory of a name. -/
def State.setMem (s : State) (m : MemName) (v : Memory) : State :=
  match m with
  | .buf => s.setBuf v
  | .pay => s.setPay v

/-- `MemWrite(m, a, n, bytes)` (R9): defined only inside the memory's capacity; the fault names the first index that does
not exist, and nothing is written. -/
def putBytes (m : MemName) (a : Nat) (bytes : List Byte) (s : State) (k : State → Out) : Out :=
  if capacity s.params m < a + bytes.length then .fault (.outOfRange m (max a (capacity s.params m)))
  else k (s.setMem m (Memory.writeBytes (s.mem m) a bytes))

/-! ### The registers by name -/

/-- The value of a register, zero-extended to 16 bits, or `none` (R13, R14). -/
def State.reg (s : State) : Reg → Option Half
  | .op => s.operands.op.map (·.setWidth 16)
  | .start => s.operands.start
  | .count => s.operands.count
  | .rlen => s.operands.rlen
  | .kind => s.operands.kind.map (·.setWidth 16)
  | .mid => s.operands.mid
  | .seq => s.operands.seq
  | .plen => s.operands.plen
  | .port => s.operands.port
  | .status => s.status.map (·.setWidth 16)
  | .crc8Out => s.crc8Out.map (·.setWidth 16)
  | .crc16Out => s.crc16Out
  | .gHeader => s.gram.header.map (·.setWidth 16)
  | .gSizef => s.gram.sizef
  | .gSize => s.gram.size
  | .gCrc8 => s.gram.crc8.map (·.setWidth 16)
  | .gDisc => s.gram.disc.map (·.setWidth 16)
  | .gDir => s.gram.dir.map (·.setWidth 16)
  | .gType => s.gram.kind.map (·.setWidth 16)
  | .gSubtype => s.gram.subtype.map (·.setWidth 16)
  | .gId => s.gram.id
  | .gSeq => s.gram.seq
  | .gPoff => s.gram.poff
  | .gPlen => s.gram.plen
  | .gCrc16 => s.gram.crc16
  | .elen => s.elen
  | .cls => s.cls.map (·.setWidth 16)
  | .dclass => s.dclass.map (·.setWidth 16)
  | .fHeight => s.flight.height
  | .fBatt => s.flight.batt.map (·.setWidth 16)
  | .fCam => s.flight.cam.map (·.setWidth 16)

/-! ### How an operation ends -/

/-- The result registers other than STATUS that belong to one operation or to two (R14, R24). -/
inductive OwnResults where
  | crc8
  | crc16
  | gram
  | elen
  | cls
  | flight
  /-- an illegal code has none -/
  | nothing
deriving DecidableEq, Repr

/-- `none` to each own result register (R146, R24). -/
def clearResults (g : OwnResults) (s : State) : State :=
  match g with
  | .crc8 => s.setCrc8Out none
  | .crc16 => s.setCrc16Out none
  | .gram => s.setGram .none
  | .elen => s.setElen none
  | .cls => s.setCls none
  | .flight => s.setFlight .none
  | .nothing => s

/-- `status X` (R9, R146): the code to STATUS, `none` to the operation's own results, nothing else; the operation is
over. This is the one way an operation reports an error. -/
def endWith (g : OwnResults) (x : Status) (s : State) : Out := .next ((clearResults g s).setStatus (some x.code))

/-- An operation that succeeded has written its results and writes `STATUS <- 0`. -/
def endOk (s : State) : Out := .next (s.setStatus (some Status.ok.code))

/-- An issue that selects no operation: `STATUS <- 6` and nothing else (R66). -/
def endIllegal (s : State) : Out := endWith .nothing .illegalOp s

/-- The auxiliary operations exist only when HAS_AUX is true; otherwise their codes are illegal (R6, R66; log 16). -/
def needsAux (s : State) (k : Out) : Out := if s.params.hasAux then k else endIllegal s

/-- Reset (R23, R165): every register and every byte of BUF and PAY holds `none`. The build, the host's further accesses
and what the host has already read are not state of the block (log 21). -/
def resetBlock (s : State) : State :=
  ((State.resetWith s.params).setPending s.pending).setHostRead s.hostRead

end Sys2Proof.Machine
end

