-- ==== Sys2Proof/Machine/Operands.lean ====
section
/-! DEFINITION. The operand forms: a register, a byte at an index, a range of bytes (44_common_laws.md R182). Each read of
a location that holds `none` has no outcome (R16, R25). -/

namespace Sys2Proof.Machine

/-- The value of a register, read by the engine or by the host. A read of a register that holds `none` has no outcome, and
neither has an issue that needs it (R16, R25). This is the one place where a register is read. -/
def withReg {w : Nat} {α : Type} (r : Reg) (v : Option (BitVec w)) (k : BitVec w → Host.Outcome α Fault Refusal) :
    Host.Outcome α Fault Refusal :=
  match v with
  | some x => k x
  | none => .refused (.noRegisterValue r)

/-- `MemRead(m, a, n)` (R9): defined only inside the memory's capacity and when every byte read holds a value. -/
def withBytes (m : MemName) (a n : Nat) (s : State) (k : List Byte → Out) : Out :=
  if capacity s.params m < a + n then .fault (.outOfRange m (max a (capacity s.params m)))
  else
    match Memory.readBytes (s.mem m) a n with
    | .ok bs => k bs
    | .error i => .refused (.noByteValue m i)

/-- `m[i]`, one byte (R9, R36). -/
def withByte (m : MemName) (i : Nat) (s : State) (k : Byte → Out) : Out :=
  withBytes m i 1 s fun bs => k (byteAt bs 0)

/-- The operand registers of CRC8, CRC16 and FLIGHTDATA and their check (R141, R180): START and COUNT, whose sum is taken
without wrap-around; a range that leaves BUF is BadOperand, before any access. -/
def withRange (g : OwnResults) (s : State) (k : Nat → Nat → Out) : Out :=
  withReg .start s.operands.start fun start =>
  withReg .count s.operands.count fun count =>
  if s.params.bufCap < start.toNat + count.toNat then endWith g .badOperand s
  else k start.toNat count.toNat

/-- The operand register of DECODE and CLASSIFY and its check (R104, R121): RLEN beyond the capacity is BadOperand. -/
def withReceived (g : OwnResults) (s : State) (k : Nat → Out) : Out :=
  withReg .rlen s.operands.rlen fun rlen =>
  if s.params.bufCap < rlen.toNat then endWith g .badOperand s
  else k rlen.toNat

end Sys2Proof.Machine
end

