-- ==== Sys2Proof/Machine/ChecksumOps.lean ====
section
/-! DEFINITION. CRC8 and CRC16 (40_checksum.md R74, R75). -/

namespace Sys2Proof.Machine

/-- CRC8 (R74). -/
def execCrc8 (s : State) : Out :=
  withRange .crc8 s fun start count =>
  withBytes .buf start count s fun bs =>
  endOk (s.setCrc8Out (some (s.params.crc8 bs)))

/-- CRC16 (R75). -/
def execCrc16 (s : State) : Out :=
  withRange .crc16 s fun start count =>
  withBytes .buf start count s fun bs =>
  endOk (s.setCrc16Out (some (s.params.crc16 bs)))

end Sys2Proof.Machine
end

