-- ==== Sys2Proof/Machine/FramingOps.lean ====
section
/-! DEFINITION. The auxiliary operations CLASSIFY, HSREQ, DISPATCH and FLIGHTDATA (43_aux_framing.md). -/

namespace Sys2Proof.Machine

/-- CLASSIFY (R121): BUF is read only when nine bytes were received. -/
def execClassify (s : State) : Out :=
  needsAux s <|
  withReceived .cls s fun rlen =>
  if rlen < prefixLength then endOk (s.setCls (some 0))
  else
    withBytes .buf 0 prefixLength s fun bs =>
    endOk (s.setCls (some (if isHandshakeAck bs rlen then 1 else 0)))

/-- HSREQ (R123). -/
def execHsreq (s : State) : Out :=
  needsAux s <|
  withReg .port s.operands.port fun port =>
  putBytes .buf 0 (handshakeRequest port) s fun t =>
  endOk (t.setElen (some (BitVec.ofNat 16 (handshakeRequest port).length)))

/-- DISPATCH (R126): all 16 bits of MID are compared. -/
def execDispatch (s : State) : Out :=
  needsAux s <|
  withReg .mid s.operands.mid fun mid =>
  endOk (s.setDclass (some (classCode (classOfId mid))))

/-- FLIGHTDATA (R128): four bytes are read, and only when COUNT is 24 (R182). -/
def execFlightdata (s : State) : Out :=
  needsAux s <|
  withRange .flight s fun start count =>
  if count ≠ flightLength then endWith .flight .lengthMismatch s
  else
    withByte .buf start s fun lo =>
    withByte .buf (start + 1) s fun hi =>
    withByte .buf (start + 12) s fun batt =>
    withByte .buf (start + 20) s fun cam =>
    endOk (s.setFlight { height := some (le16 lo hi), batt := some batt, cam := some cam })

/-- An illegal operation select code (R66): `STATUS <- 6` and nothing else. -/
def execIllegal (_code : Byte) (s : State) : Out := endIllegal s

end Sys2Proof.Machine
end

