-- ==== Sys2Proof/Machine/GramOps.lean ====
section
/-! DEFINITION. DECODE (41_decode.md R87) and ENCODE (42_encode.md R107). -/

namespace Sys2Proof.Machine

/-- The thirteen result registers of a decoded gram (R14, R87). -/
def gramRegs (g : Gram) : GramRegs :=
  { header := some g.header
    sizef := some g.sizeField
    size := some g.size
    crc8 := some g.crc8
    disc := some g.discriminator
    dir := some (directionCode g.direction)
    kind := some g.kind
    subtype := some g.subtype
    id := some g.id
    seq := some g.sequence
    poff := some (BitVec.ofNat 16 payloadOffset)
    plen := some (g.size - BitVec.ofNat 16 fixedBytes)
    crc16 := some g.crc16 }

/-- DECODE once the total length `len` is known to be sane (R87, R90): the two checksum tests, then the unpacking. -/
def decodeChecked (len : Nat) (s : State) : Out :=
  withBytes .buf 0 3 s fun short =>
  withByte .buf 3 s fun c8 =>
  if s.params.crc8 short ≠ c8 then endWith .gram .checksumInvalid s
  else
    withBytes .buf 0 (len - 2) s fun body =>
    withByte .buf (len - 2) s fun lo =>
    withByte .buf (len - 1) s fun hi =>
    if s.params.crc16 body ≠ le16 lo hi then endWith .gram .checksumInvalid s
    else endOk (s.setGram (gramRegs (unpackGram (body ++ [lo, hi]))))

/-- DECODE once RLEN and the total length `len` of the size field are known (R87, R89). -/
def decodeSized (rlen len : Nat) (s : State) : Out :=
  if rlen < len ∨ len < fixedBytes then endWith .gram .sizeMismatch s else decodeChecked len s

/-- DECODE (R87): the checks in the order of R97, each made only if every one before it passed. Only the bytes the
pseudocode reaches are read (R39; log 6). -/
def execDecode (s : State) : Out :=
  withReceived .gram s fun rlen =>
  if rlen < fixedBytes then endWith .gram .tooShort s
  else
    withByte .buf 1 s fun lo =>
    withByte .buf 2 s fun hi =>
    decodeSized rlen (lengthOf (le16 lo hi)).toNat s

/-- ENCODE (R107). Every operand register it reads must hold a value, whatever the status (R25; log 7). -/
def execEncode (s : State) : Out :=
  withReg .kind s.operands.kind fun kind =>
  withReg .mid s.operands.mid fun mid =>
  withReg .seq s.operands.seq fun seq =>
  withReg .plen s.operands.plen fun plen =>
  if s.params.maxPayload < plen.toNat then endWith .elen .badOperand s
  else
    withBytes .pay 0 plen.toNat s fun p =>
    putBytes .buf 0 (encodeGram s.params.crc8 s.params.crc16 kind mid seq p) s fun t =>
    endOk (t.setElen (some (BitVec.ofNat 16 (fixedBytes + plen.toNat))))

end Sys2Proof.Machine
end

