-- ==== Sys2Proof/Machine/WireRows.lean ====
section
/-! DEFINITION. The nine wire-format rows. A wire format is bytes in BUF, at the offsets the format has there (R38): the
meaning of a row is the host's write of its bytes (R68, `BUF[a..b) <- bytes`), and no register changes. DESIGN CHOICE,
log 13: the table lists these rows beside the operations and gives them no effect of their own. -/

namespace Sys2Proof.Machine

/-- The bytes of a row, put at their place in BUF. -/
def putRow (place : Nat) (row : Instr) (s : State) : Out := putBytes .buf place (encode row) s .next

/-- GRAM_HEADER (R53): BUF[0..9). -/
def execGramHeader (len : BitVec 13) (low : BitVec 3) (crc8 : Byte) (f d : BitVec 1) (kind sub : BitVec 3) (id seq : Half)
    (s : State) : Out :=
  putRow 0 (.gramHeader len low crc8 f d kind sub id seq) s

/-- GRAM_TODRONE (R107): BUF[0..9). -/
def execGramTodrone (len : BitVec 13) (crc8 : Byte) (kind : BitVec 3) (id seq : Half) (s : State) : Out :=
  putRow 0 (.gramTodrone len crc8 kind id seq) s

/-- GRAM_KEEPALIVE (R114): BUF[0..11). -/
def execGramKeepalive (crc8 : Byte) (seq crc16 : Half) (s : State) : Out := putRow 0 (.gramKeepalive crc8 seq crc16) s

/-- The offset of the message id in a gram (R50). -/
abbrev idOffset : Nat := 5

/-- MSG_CONNECT_ACK_ECHO (R59): the id field, BUF[5..7). -/
def execMsgConnectAckEcho (s : State) : Out := putRow idOffset .msgConnectAckEcho s

/-- MSG_KEEPALIVE (R59): the id field, BUF[5..7). -/
def execMsgKeepalive (s : State) : Out := putRow idOffset .msgKeepalive s

/-- MSG_FLIGHT_DATA (R59): the id field, BUF[5..7). -/
def execMsgFlightData (s : State) : Out := putRow idOffset .msgFlightData s

/-- HS_CONN_REQ (R60): BUF[0..11). -/
def execHsConnReq (port : Half) (s : State) : Out := putRow 0 (.hsConnReq port) s

/-- HS_CONN_ACK (R60, R121): BUF[0..9). -/
def execHsConnAck (s : State) : Out := putRow 0 .hsConnAck s

/-- FLIGHT_DATA_PAYLOAD (R61): the payload of a gram, BUF[9..33). -/
def execFlightDataPayload (height : Half) (battery camera : Byte) (gap2 gap13 gap21 : List Byte) (s : State) : Out :=
  putRow payloadOffset (.flightDataPayload height battery camera gap2 gap13 gap21) s

end Sys2Proof.Machine
end

