-- ==== Sys2Proof/Machine/Dispatch.lean ====
section
/-! DEFINITION. One arm per row of the table. -/

namespace Sys2Proof.Machine

def exec (i : Instr) (s : State) : Host.Outcome State Fault Refusal :=
  match i with
  | .crc8 => Sys2Proof.Machine.execCrc8 s
  | .crc16 => Sys2Proof.Machine.execCrc16 s
  | .decode => Sys2Proof.Machine.execDecode s
  | .encode => Sys2Proof.Machine.execEncode s
  | .classify => Sys2Proof.Machine.execClassify s
  | .hsreq => Sys2Proof.Machine.execHsreq s
  | .dispatch => Sys2Proof.Machine.execDispatch s
  | .flightdata => Sys2Proof.Machine.execFlightdata s
  | .illegal code => Sys2Proof.Machine.execIllegal code s
  | .gramHeader len low crc8 f d kind sub id seq => Sys2Proof.Machine.execGramHeader len low crc8 f d kind sub id seq s
  | .gramTodrone len crc8 kind id seq => Sys2Proof.Machine.execGramTodrone len crc8 kind id seq s
  | .gramKeepalive crc8 seq crc16 => Sys2Proof.Machine.execGramKeepalive crc8 seq crc16 s
  | .msgConnectAckEcho => Sys2Proof.Machine.execMsgConnectAckEcho s
  | .msgKeepalive => Sys2Proof.Machine.execMsgKeepalive s
  | .msgFlightData => Sys2Proof.Machine.execMsgFlightData s
  | .hsConnReq port => Sys2Proof.Machine.execHsConnReq port s
  | .hsConnAck => Sys2Proof.Machine.execHsConnAck s
  | .flightDataPayload height battery camera gap2 gap13 gap21 => Sys2Proof.Machine.execFlightDataPayload height battery camera gap2 gap13 gap21 s

end Sys2Proof.Machine
end

