-- ==== Sys2Proof/Machine/HostPort.lean ====
section
/-! DEFINITION. The host's accesses (20_memory.md R40, 30_encoding.md R68, 60_exceptions.md R156): each takes effect as one
indivisible step, in the order the host makes them. -/

namespace Sys2Proof.Machine

/-- The issue (R15, R25): the code goes to OP and the operation runs to completion. -/
def issueOp (code : Byte) (s : State) : Out :=
  exec (decodeOp code) (s.setOperands { s.operands with op := some code })

/-- The host puts a wire format's bytes at their place in BUF (log 13); bytes that are no row are refused (log 22). -/
def placeRow (bytes : List Byte) (s : State) : Out :=
  match decodeMessage bytes with
  | .ok i => exec i s
  | .error e => .refused (.noSuchRow e)

/-- A host read of a register, and what the host goes on to do with the value (R15, R16, R156). OP is write-only, and a
register that holds `none` gives no outcome. -/
def withRead {α : Type} (r : Reg) (s : State) (k : Half → State → Host.Outcome α Fault Refusal) :
    Host.Outcome α Fault Refusal :=
  if r = .op then .refused (.writeOnlyRegister .op)
  else withReg r (s.reg r) fun v => k v (s.setHostRead (some v))

/-- A host read of a register as an access of its own; operand registers may be read back (log 11). -/
def readRegister (r : Reg) (s : State) : Out := withRead r s fun _ t => .next t

/-- A host read of one byte (R16, R36): it changes nothing in the block. -/
def readMemory (m : MemName) (i : Nat) (s : State) : Out :=
  if capacity s.params m ≤ i then .fault (.outOfRange m i)
  else
    match Memory.read (s.mem m) i with
    | some v => .next (s.setHostRead (some (v.setWidth 16)))
    | none => .refused (.noByteValue m i)

/-- One access of the host. -/
def hostAct (a : HostAction) (s : State) : Out :=
  match a with
  | .setStart v => .next (s.setOperands { s.operands with start := some v })
  | .setCount v => .next (s.setOperands { s.operands with count := some v })
  | .setRlen v => .next (s.setOperands { s.operands with rlen := some v })
  | .setKind v => .next (s.setOperands { s.operands with kind := some v })
  | .setMid v => .next (s.setOperands { s.operands with mid := some v })
  | .setSeq v => .next (s.setOperands { s.operands with seq := some v })
  | .setPlen v => .next (s.setOperands { s.operands with plen := some v })
  | .setPort v => .next (s.setOperands { s.operands with port := some v })
  | .issue code => issueOp code s
  | .writeBytes m a bytes => putBytes m a bytes s .next
  | .place bytes => placeRow bytes s
  | .readReg r => readRegister r s
  | .readByte m i => readMemory m i s
  | .reset => .next (resetBlock s)

/-- The host's access that an instruction of the table is (log 9): one byte is the code it writes to OP, more bytes are
a wire format it places. -/
def actionOf (bytes : List Byte) : HostAction :=
  if bytes.length = 1 then .issue (byteAt bytes 0) else .place bytes

/-- What the host owes before an issue (R156, R167): the operand registers the operation reads hold values. A register
that holds one keeps it; one that holds `none` is given 0. Used only to set the machine up for one instruction (log 9). -/
def withOperandsFor (i : Instr) (s : State) : State :=
  let o := s.operands
  match i with
  | .crc8 => s.setOperands { o with start := o.start <|> some 0, count := o.count <|> some 0 }
  | .crc16 => s.setOperands { o with start := o.start <|> some 0, count := o.count <|> some 0 }
  | .decode => s.setOperands { o with rlen := o.rlen <|> some 0 }
  | .encode => s.setOperands { o with
      kind := o.kind <|> some 0, mid := o.mid <|> some 0, seq := o.seq <|> some 0, plen := o.plen <|> some 0 }
  | .classify => s.setOperands { o with rlen := o.rlen <|> some 0 }
  | .hsreq => s.setOperands { o with port := o.port <|> some 0 }
  | .dispatch => s.setOperands { o with mid := o.mid <|> some 0 }
  | .flightdata => s.setOperands { o with start := o.start <|> some 0, count := o.count <|> some 0 }
  | .illegal _ => s
  | .gramHeader _ _ _ _ _ _ _ _ _ => s
  | .gramTodrone _ _ _ _ _ => s
  | .gramKeepalive _ _ _ => s
  | .msgConnectAckEcho => s
  | .msgKeepalive => s
  | .msgFlightData => s
  | .hsConnReq _ => s
  | .hsConnAck => s
  | .flightDataPayload _ _ _ _ _ _ => s

/-- The machine set up so that its next step runs the instruction with these bytes (log 9). -/
def loadInstruction (bytes : List Byte) (s : State) : State :=
  match decode bytes with
  | .ok i => (withOperandsFor i s).setPending (actionOf bytes :: s.pending)
  | .error _ => s.setPending (actionOf bytes :: s.pending)

end Sys2Proof.Machine
end

