-- ==== Sys2Proof/Machine/Step.lean ====
section
/-! DEFINITION. One step: the next access of the host, or, with none to come, the idle block, which holds its registers and
memories (60_exceptions.md R149). -/

namespace Sys2Proof.Machine

/-- One step (20_memory.md R40). The block fetches nothing (10_state.md R12): what runs next is the host's next access. -/
def step (s : State) : Host.Outcome State Fault Refusal :=
  match s.pending with
  | [] => .next s
  | a :: rest => hostAct a (s.setPending rest)

/-- The instruction that spec/opcode_table.json numbers `w`, as the host's next access, with the operand registers it
reads holding values (R25, R156); log 9. -/
def State.withFetchWord (s : State) (nbits w : Nat) : State := loadInstruction (tableBytes nbits w) s

end Sys2Proof.Machine
end

