-- ==== Sys2Proof/Machine/HostProgram.lean ====
section
/-! DEFINITION. What the spec writes as several accesses of the host: the pseudo-operations (30_encoding.md R70) and the
receive path (43_aux_framing.md R130). The block executes only the issues among them. -/

namespace Sys2Proof.Machine

/-- Go on from a next state; a stop stays a stop. -/
def andThen {α : Type} (o : Out) (k : State → Host.Outcome α Fault Refusal) : Host.Outcome α Fault Refusal :=
  match o with
  | .next s => k s
  | .fault r => .fault r
  | .refused r => .refused r

/-- The host's accesses made in order, stopping where one stops (R40). -/
def runActions : List HostAction → State → Out
  | [], s => .next s
  | a :: as, s => andThen (hostAct a s) (runActions as)

/-- `KEEPALIVE` (R70, R114). -/
def keepaliveActions : List HostAction :=
  [.setKind 4, .setMid keepaliveId, .setSeq 0, .setPlen 0, .issue 0x04]

/-- `IS_VALID` (R70): DECODE, and the host reads STATUS; the gram is valid iff it reads 0. -/
def isValidActions : List HostAction := [.issue 0x03, .readReg .status]

/-- `CRC8_HDR` (R70). -/
def crc8HdrActions : List HostAction := [.setStart 0, .setCount 3, .issue 0x01]

/-- `CRC16_BODY n` (R70), for a gram of total length `n`. -/
def crc16BodyActions (n : Half) : List HostAction := [.setStart 0, .setCount (n - 2), .issue 0x02]

/-- What the host concludes from one datagram (R130, R157, R158). -/
inductive Verdict where
  /-- the prefix matched: the handshake is complete -/
  | handshakeComplete
  /-- DECODE reported an error: logged and dropped -/
  | dropped
  /-- flight data taken -/
  | telemetry
  /-- FLIGHTDATA reported LengthMismatch -/
  | telemetryError
  /-- the connect-ack echo, whose handling the source does not give -/
  | connectAckEcho
  /-- logged as unhandled; not an error -/
  | unhandled
  /-- a build without HAS_AUX: the gram is decoded, and what follows is the host's own (log 26) -/
  | decoded
deriving DecidableEq, Repr

/-- The end of the receive path for flight data (R130): the payload goes to FLIGHTDATA, and the host takes the three fields
unless STATUS is 4. -/
def receiveTelemetry (s : State) : Host.Outcome (State × Verdict) Fault Refusal :=
  withRead .gPoff s fun poff s =>
  withRead .gPlen s fun plen s =>
  andThen (runActions [.setStart poff, .setCount plen, .issue 0x08] s) fun s =>
  withRead .status s fun status s =>
  if status = 4 then .next (s, .telemetryError)
  else andThen (runActions [.readReg .fHeight, .readReg .fBatt, .readReg .fCam] s) fun s => .next (s, .telemetry)

/-- The receive path after a successful DECODE (R130): DISPATCH on the message id. -/
def receiveDispatched (s : State) : Host.Outcome (State × Verdict) Fault Refusal :=
  withRead .gId s fun id s =>
  andThen (runActions [.setMid id, .issue 0x07] s) fun s =>
  withRead .dclass s fun dclass s =>
  if dclass = 2 then receiveTelemetry s
  else .next (s, if dclass = 1 then .connectAckEcho else .unhandled)

/-- The receive path after the prefix test (R130, R158): DECODE, and on any error the datagram is dropped. In a build without
HAS_AUX it ends at the decoded gram; DESIGN CHOICE, log 26. -/
def receiveGram (s : State) : Host.Outcome (State × Verdict) Fault Refusal :=
  andThen (hostAct (.issue 0x03) s) fun s =>
  withRead .status s fun status s =>
  if status ≠ 0 then .next (s, .dropped)
  else if s.params.hasAux then receiveDispatched s
  else .next (s, .decoded)

/-- The receive path for one datagram (R130): classify, decode, dispatch, and flight data on its id. Every value the host acts
on is a host read, so a register that holds `none` gives no outcome (R16).
DESIGN CHOICE, log 26: R130 applies only with HAS_AUX. In a build without it there is no CLASSIFY, and the host makes the test
that R157 asks of it by comparing the datagram's first nine bytes itself. -/
def receiveDatagram (datagram : List Byte) (s : State) : Host.Outcome (State × Verdict) Fault Refusal :=
  andThen (runActions [.writeBytes .buf 0 datagram, .setRlen (BitVec.ofNat 16 datagram.length)] s) fun s =>
  if s.params.hasAux then
    andThen (hostAct (.issue 0x05) s) fun s =>
    withRead .cls s fun cls s =>
    if cls = 1 then .next (s, .handshakeComplete) else receiveGram s
  else if isHandshakeAck datagram datagram.length then .next (s, .handshakeComplete)
  else receiveGram s

end Sys2Proof.Machine
end

