-- ==== Sys2Proof/Safety.lean ====
section
/-! DEFINITION. The terms the statements use: which registers an operation reads and writes (R13, R24), bytes held in a
memory, inputs that hold values, the invariant of the machine, single-bit changes and the properties P8 and P16 (R83). -/

namespace Sys2Proof.Machine

/-! ### Read and write sets -/

/-- The operand registers an operation reads (R13). The wire-format rows read none. -/
def operandsRead : Instr → List Reg
  | .crc8 => [.start, .count]
  | .crc16 => [.start, .count]
  | .decode => [.rlen]
  | .encode => [.kind, .mid, .seq, .plen]
  | .classify => [.rlen]
  | .hsreq => [.port]
  | .dispatch => [.mid]
  | .flightdata => [.start, .count]
  | .illegal _ => []
  | .gramHeader _ _ _ _ _ _ _ _ _ => []
  | .gramTodrone _ _ _ _ _ => []
  | .gramKeepalive _ _ _ => []
  | .msgConnectAckEcho => []
  | .msgKeepalive => []
  | .msgFlightData => []
  | .hsConnReq _ => []
  | .hsConnAck => []
  | .flightDataPayload _ _ _ _ _ _ => []

/-- The registers an issue writes (R24). The wire-format rows write none. -/
def registersWritten : Instr → List Reg
  | .crc8 => [.status, .crc8Out]
  | .crc16 => [.status, .crc16Out]
  | .decode => [.status, .gHeader, .gSizef, .gSize, .gCrc8, .gDisc, .gDir, .gType, .gSubtype, .gId, .gSeq, .gPoff,
      .gPlen, .gCrc16]
  | .encode => [.status, .elen]
  | .classify => [.status, .cls]
  | .hsreq => [.status, .elen]
  | .dispatch => [.status, .dclass]
  | .flightdata => [.status, .fHeight, .fBatt, .fCam]
  | .illegal _ => [.status]
  | .gramHeader _ _ _ _ _ _ _ _ _ => []
  | .gramTodrone _ _ _ _ _ => []
  | .gramKeepalive _ _ _ => []
  | .msgConnectAckEcho => []
  | .msgKeepalive => []
  | .msgFlightData => []
  | .hsConnReq _ => []
  | .hsConnAck => []
  | .flightDataPayload _ _ _ _ _ _ => []

/-- The rows that may store to BUF (R24): ENCODE, HSREQ and the wire-format rows. No row stores to PAY. -/
def storesToBuf : Instr → Bool
  | .crc8 => false
  | .crc16 => false
  | .decode => false
  | .encode => true
  | .classify => false
  | .hsreq => true
  | .dispatch => false
  | .flightdata => false
  | .illegal _ => false
  | .gramHeader _ _ _ _ _ _ _ _ _ => true
  | .gramTodrone _ _ _ _ _ => true
  | .gramKeepalive _ _ _ => true
  | .msgConnectAckEcho => true
  | .msgKeepalive => true
  | .msgFlightData => true
  | .hsConnReq _ => true
  | .hsConnAck => true
  | .flightDataPayload _ _ _ _ _ _ => true

/-- The four auxiliary operations, which exist only with HAS_AUX (R6, R66). -/
def isAuxiliary : Instr → Bool
  | .crc8 => false
  | .crc16 => false
  | .decode => false
  | .encode => false
  | .classify => true
  | .hsreq => true
  | .dispatch => true
  | .flightdata => true
  | .illegal _ => false
  | .gramHeader _ _ _ _ _ _ _ _ _ => false
  | .gramTodrone _ _ _ _ _ => false
  | .gramKeepalive _ _ _ => false
  | .msgConnectAckEcho => false
  | .msgKeepalive => false
  | .msgFlightData => false
  | .hsConnReq _ => false
  | .hsConnAck => false
  | .flightDataPayload _ _ _ _ _ _ => false

/-- The row has its own effect in this build: an auxiliary operation has it only with HAS_AUX (R66). -/
def Present (i : Instr) (s : State) : Prop := isAuxiliary i = true → s.params.hasAux = true

/-- The nine wire-format rows. -/
def isWireRow : Instr → Bool
  | .crc8 => false
  | .crc16 => false
  | .decode => false
  | .encode => false
  | .classify => false
  | .hsreq => false
  | .dispatch => false
  | .flightdata => false
  | .illegal _ => false
  | .gramHeader _ _ _ _ _ _ _ _ _ => true
  | .gramTodrone _ _ _ _ _ => true
  | .gramKeepalive _ _ _ => true
  | .msgConnectAckEcho => true
  | .msgKeepalive => true
  | .msgFlightData => true
  | .hsConnReq _ => true
  | .hsConnAck => true
  | .flightDataPayload _ _ _ _ _ _ => true

/-! ### Bytes and inputs -/

/-- The bytes of a memory from index `a` upward are `bs`. -/
def Holds (m : Memory) (a : Nat) (bs : List Byte) : Prop :=
  ∀ k < bs.length, Memory.read m (a + k) = some (byteAt bs k)

/-- After, the bytes from index `a` upward are `bs`, and every byte outside them reads as before. -/
def StoredAt (before after : Memory) (a : Nat) (bs : List Byte) : Prop :=
  Holds after a bs ∧ ∀ i, (i < a ∨ a + bs.length ≤ i) → Memory.read after i = Memory.read before i

/-- Every operand register the operation reads holds a value (R25). -/
def OperandsValued (i : Instr) (s : State) : Prop := ∀ r ∈ operandsRead i, (s.reg r).isSome

/-- Every byte of BUF and of PAY holds a value. -/
def MemoriesValued (s : State) : Prop :=
  ∀ m : MemName, ∀ k < capacity s.params m, (Memory.read (s.mem m) k).isSome

/-- START and COUNT name a range inside BUF, and `a` is an index of it (R74). -/
def InRange (s : State) (m : MemName) (a : Nat) : Prop :=
  ∃ start count, s.operands.start = some start ∧ s.operands.count = some count ∧
    start.toNat + count.toNat ≤ s.params.bufCap ∧ m = .buf ∧ start.toNat ≤ a ∧ a < start.toNat + count.toNat

/-- The bytes DECODE reads (R39, R87): the size field once RLEN is sane, offsets 0 to 3 once the total length is, and the
rest of the gram once the 8-bit checksum is right. -/
def DecodeReads (s : State) (a : Nat) : Prop :=
  ∃ n, s.operands.rlen = some n ∧ 11 ≤ n.toNat ∧ n.toNat ≤ s.params.bufCap ∧
    (a = 1 ∨ a = 2 ∨
      ∃ lo hi, Memory.read s.buf 1 = some lo ∧ Memory.read s.buf 2 = some hi ∧
        11 ≤ (le16 lo hi).toNat / 8 ∧ (le16 lo hi).toNat / 8 ≤ n.toNat ∧
        (a < 4 ∨ (a < (le16 lo hi).toNat / 8 ∧
          ∃ b0 c8, Memory.read s.buf 0 = some b0 ∧ Memory.read s.buf 3 = some c8 ∧ s.params.crc8 [b0, lo, hi] = c8)))

/-- The byte `a` of memory `m` is one that the row's pseudocode reads in this state (R74, R75, R87, R107, R121, R128). The
wire-format rows read none. Which bytes an early end leaves unread is the model's reading of R25; log 6. -/
def ReadsByte (i : Instr) (s : State) (m : MemName) (a : Nat) : Prop :=
  match i with
  | .crc8 => InRange s m a
  | .crc16 => InRange s m a
  | .decode => m = .buf ∧ DecodeReads s a
  | .encode => m = .pay ∧ ∃ plen, s.operands.plen = some plen ∧ plen.toNat ≤ s.params.maxPayload ∧ a < plen.toNat
  | .classify => m = .buf ∧ ∃ n, s.operands.rlen = some n ∧ 9 ≤ n.toNat ∧ n.toNat ≤ s.params.bufCap ∧ a < 9
  | .hsreq => False
  | .dispatch => False
  | .flightdata =>
      m = .buf ∧ ∃ start, s.operands.start = some start ∧ s.operands.count = some 24 ∧
        start.toNat + 24 ≤ s.params.bufCap ∧
        (a = start.toNat ∨ a = start.toNat + 1 ∨ a = start.toNat + 12 ∨ a = start.toNat + 20)
  | .illegal _ => False
  | .gramHeader _ _ _ _ _ _ _ _ _ => False
  | .gramTodrone _ _ _ _ _ => False
  | .gramKeepalive _ _ _ => False
  | .msgConnectAckEcho => False
  | .msgKeepalive => False
  | .msgFlightData => False
  | .hsConnReq _ => False
  | .hsConnAck => False
  | .flightDataPayload _ _ _ _ _ _ => False

/-- The two states agree on everything an operation may take as an input (R11): the build, the operand registers and the
two memories. -/
def SameInputs (s t : State) : Prop :=
  s.params = t.params ∧ s.operands = t.operands ∧ s.buf = t.buf ∧ s.pay = t.pay

/-- The meaning of a wire-format row (log 13): where its bytes fit BUF from index `place` upward, it answers a next state
that differs from the one before in those bytes alone. -/
def PlacesRow (row : Instr) (place : Nat) (s : State) : Prop :=
  place + (encode row).length ≤ s.params.bufCap →
    ∃ m, exec row s = .next { s with buf := m } ∧ StoredAt s.buf m place (encode row)

/-! ### The invariant -/

/-- The `G_*` registers describe one gram (R14, R87): lengths at least 11, the fields of the discriminator taken from it,
the payload at 9. -/
def GramRegs.Describes (g : GramRegs) : Prop :=
  ∃ header sf c8 d id seq c16,
    fixedBytes ≤ (lengthOf sf).toNat ∧
    g = { header := some header, sizef := some sf, size := some (lengthOf sf), crc8 := some c8, disc := some d,
          dir := some (directionCode (directionOf d)), kind := some (kindOf d), subtype := some (subtypeOf d),
          id := some id, seq := some seq, poff := some (BitVec.ofNat 16 payloadOffset),
          plen := some (lengthOf sf - BitVec.ofNat 16 fixedBytes), crc16 := some c16 }

/-- The invariant of the block: the build meets R6; each memory is canonical and lies inside its capacity (R17, R18);
STATUS and DCLASS hold only codes that R15 and R14 give; the `G_*` registers and the `F_*` registers hold values together
or not at all (R96, R128); ELEN is a length that fits BUF (R107). -/
structure Consistent (s : State) : Prop where
  params : s.params.Wf
  canonical : ∀ m : MemName, Memory.wf (s.mem m) = true
  inside : ∀ m : MemName, ∀ c ∈ s.mem m, c.1 < capacity s.params m
  status : ∀ v, s.status = some v → v.toNat ≤ 6
  dclass : ∀ v, s.dclass = some v → v.toNat ≤ 2
  gram : s.gram = .none ∨ s.gram.Describes
  flight : s.flight = .none ∨ ∃ h b c, s.flight = { height := some h, batt := some b, cam := some c }
  elen : ∀ v, s.elen = some v → fixedBytes ≤ v.toNat ∧ v.toNat ≤ s.params.bufCap

/-! ### Single-bit changes -/

/-- The byte sequence with bit `k % 8` of the byte at offset `k / 8` changed. -/
def flipBit : List Byte → Nat → List Byte
  | [], _ => []
  | b :: bs, k => if k < 8 then (b ^^^ (1#8 <<< k)) :: bs else b :: flipBit bs (k - 8)

/-- P8 (R83): a single changed bit of a 3-byte sequence changes the 8-bit checksum. -/
def P8 (c8 : List Byte → Byte) : Prop :=
  ∀ s : List Byte, s.length = 3 → ∀ k < 8 * s.length, c8 (flipBit s k) ≠ c8 s

/-- P16 (R83): a single changed bit of a sequence of at least nine bytes changes the 16-bit checksum. -/
def P16 (c16 : List Byte → Half) : Prop :=
  ∀ s : List Byte, 9 ≤ s.length → ∀ k < 8 * s.length, c16 (flipBit s k) ≠ c16 s

end Sys2Proof.Machine
end

