-- ==== Sys2Proof/Certificates/Slice0/Obligations.lean ====
section
/-! DEFINITION. The statements, one def each. Each docstring names the rules it formalises. A next state is written as the
state before with the fields that change, so such a statement is also the instruction's frame. -/

open Sys2Proof Sys2Proof.Machine

/-! ### The rows and their bytes -/

/-- Decoding the bytes of a well-formed row gives the row, with each field at every value a well-formed term admits (R53, R59,
R60, R61, R66, R107, R114). Which terms are well-formed is the model's choice, log 14: bytes that match both the pattern of R53
and the more special one of R107 (low size bits 000, direction bits 01, subtype 000) are read as GRAM_TODRONE, so the
GRAM_HEADER terms with those four fields are shut out; the same bytes are covered as the GRAM_TODRONE terms. -/
def Obligations.DecodeOfEncodeIsTheRow : Prop :=
  ∀ i : Instr, i.WellFormed = true → decode (encode i) = .ok i

/-- Bytes the decoder reads as a row are the bytes of that row, and the row is well-formed (R53, R66). Which row the decoder
reads is the model's choice, log 14: rows are told apart by their length, and the bytes of a header of the form ENCODE builds,
which the pattern of R53 matches as well, are read as GRAM_TODRONE and so are no well-formed GRAM_HEADER. -/
def Obligations.RecognisedBytesAreTheRowsBytes : Prop :=
  ∀ (b : List Byte) (i : Instr), decode b = .ok i → encode i = b ∧ i.WellFormed = true

/-- Words written out from the spec's encodings decode to the rows they stand for (R53, R59, R60, R66, R107, R114). That the
nine bytes CC 70 00 CB 48 … are read as GRAM_TODRONE and not as the more general GRAM_HEADER is the model's choice, log 14. -/
def Obligations.WrittenOutWordsDecode : Prop :=
  decode [0b00000001] = .ok .crc8 ∧ decode [0b00000100] = .ok .encode ∧ decode [0b00001000] = .ok .flightdata ∧
  decode [0b00000000] = .ok (.illegal 0) ∧
  decode [0b01010110, 0b00000000] = .ok .msgFlightData ∧
  decode [0xCC, 0x70, 0x00, 0xCB, 0x48, 0x34, 0x12, 0xCD, 0xAB] = .ok (.gramTodrone 14 0xCB 1 0x1234 0xABCD) ∧
  decode [0xCC, 0x18, 0x01, 0xB9, 0x88, 0x56, 0x00, 0x01, 0x00] = .ok (.gramHeader 35 0 0xB9 1 0 1 0 0x0056 1) ∧
  decode [0xCC, 0x58, 0x00, 0x7C, 0x60, 0x25, 0x00, 0x00, 0x00, 0x6C, 0x95] = .ok (.gramKeepalive 0x7C 0 0x956C) ∧
  decode [0x63, 0x6F, 0x6E, 0x6E, 0x5F, 0x72, 0x65, 0x71, 0x3A, 0x68, 0x1F] = .ok (.hsConnReq 8040)

/-- The bit pattern of the fixed header (R53): each field of GRAM_HEADER stands where the size field, the discriminator,
the id and the sequence number are read from. -/
def Obligations.HeaderRowFieldsReadBack : Prop :=
  ∀ (len : BitVec 13) (low : BitVec 3) (c8 : Byte) (f d : BitVec 1) (kind sub : BitVec 3) (id seq : Half),
    let b := encode (.gramHeader len low c8 f d kind sub id seq)
    byteAt b 0 = 0xCC ∧
    (lengthOf (le16 (byteAt b 1) (byteAt b 2))).toNat = len.toNat ∧
    (le16 (byteAt b 1) (byteAt b 2)).toNat % 8 = low.toNat ∧
    byteAt b 3 = c8 ∧
    (byteAt b 4).getLsbD 7 = f.getLsbD 0 ∧ (byteAt b 4).getLsbD 6 = d.getLsbD 0 ∧
    kindOf (byteAt b 4) = kind ∧ subtypeOf (byteAt b 4) = sub ∧
    le16 (byteAt b 5) (byteAt b 6) = id ∧ le16 (byteAt b 7) (byteAt b 8) = seq

/-! ### Reset, the host's accesses, the step -/

/-- After reset every register and every byte of BUF and PAY holds `none` (R23, R165). -/
def Obligations.ResetHoldsNoValue : Prop :=
  (∀ r : Reg, State.reset.reg r = none) ∧ ∀ (m : MemName) (i : Nat), Memory.read (State.reset.mem m) i = none

/-- The reset state meets the invariant. -/
def Obligations.ResetMeetsInvariant : Prop := Consistent State.reset

/-- Every step, whatever the host's access, keeps the invariant: canonical memories inside their capacities, only the
STATUS and DCLASS codes of R14 and R15, the `G_*` registers the picture of one gram or all `none`, the `F_*` registers
together, ELEN a length that fits BUF (R14, R15, R17, R18, R24, R96). -/
def Obligations.StepKeepsInvariant : Prop := ∀ s t : State, Consistent s → step s = .next t → Consistent t

/-- No step changes the parameters of the build, and none adds to the host's accesses still to come (R15, R40). -/
def Obligations.StepKeepsBuildAndOrder : Prop :=
  ∀ s t : State, step s = .next t → t.params = s.params ∧ t.pending = s.pending.tail

/-- A step runs the decoded instruction: an issue writes the code to OP and runs its operation (R25); bytes of a
wire-format row are run as that row, and bytes that are none are refused (the model's choices, log 8, log 13, log 22). The
host's access is taken from the head of those to come. -/
def Obligations.StepRunsTheDecodedRow : Prop :=
  (∀ (s : State) (code : Byte) (rest : List HostAction) (i : Instr),
    s.pending = .issue code :: rest → decode [code] = .ok i →
      step s = exec i { s with pending := rest, operands := { s.operands with op := some code } }) ∧
  (∀ (s : State) (bytes : List Byte) (rest : List HostAction) (i : Instr),
    s.pending = .place bytes :: rest → bytes.length ≠ 1 → decode bytes = .ok i →
      step s = exec i { s with pending := rest }) ∧
  (∀ (s : State) (bytes : List Byte) (rest : List HostAction) (e : DecodeError),
    s.pending = .place bytes :: rest → decodeMessage bytes = .error e → step s = .refused (.noSuchRow e))

/-- With no access to come the block is idle and holds its registers and memories (R149). -/
def Obligations.IdleBlockHolds : Prop := ∀ s : State, s.pending = [] → step s = .next s

/-- A host write of an operand register leaves the value there and changes nothing else (R13, R40). -/
def Obligations.HostWritesOneOperand : Prop :=
  ∀ (s : State) (rest : List HostAction) (v : Half) (k : Byte),
    (s.pending = .setStart v :: rest →
      step s = .next { s with pending := rest, operands := { s.operands with start := some v } }) ∧
    (s.pending = .setCount v :: rest →
      step s = .next { s with pending := rest, operands := { s.operands with count := some v } }) ∧
    (s.pending = .setRlen v :: rest →
      step s = .next { s with pending := rest, operands := { s.operands with rlen := some v } }) ∧
    (s.pending = .setKind k :: rest →
      step s = .next { s with pending := rest, operands := { s.operands with kind := some k } }) ∧
    (s.pending = .setMid v :: rest →
      step s = .next { s with pending := rest, operands := { s.operands with mid := some v } }) ∧
    (s.pending = .setSeq v :: rest →
      step s = .next { s with pending := rest, operands := { s.operands with seq := some v } }) ∧
    (s.pending = .setPlen v :: rest →
      step s = .next { s with pending := rest, operands := { s.operands with plen := some v } }) ∧
    (s.pending = .setPort v :: rest →
      step s = .next { s with pending := rest, operands := { s.operands with port := some v } })

/-- A host write of bytes inside a memory stores exactly those bytes and changes nothing else (R36, R68). One that leaves the
memory is to an index that does not exist; that it stops as a whole, with no next state, is the model's choice, log 12. -/
def Obligations.HostWritesBytes : Prop :=
  ∀ (s : State) (rest : List HostAction) (a : Nat) (bs : List Byte),
    (s.pending = .writeBytes .buf a bs :: rest → a + bs.length ≤ s.params.bufCap →
      ∃ m, step s = .next { s with pending := rest, buf := m } ∧ StoredAt s.buf m a bs) ∧
    (s.pending = .writeBytes .pay a bs :: rest → a + bs.length ≤ s.params.maxPayload →
      ∃ m, step s = .next { s with pending := rest, pay := m } ∧ StoredAt s.pay m a bs) ∧
    (∀ m : MemName, s.pending = .writeBytes m a bs :: rest → capacity s.params m < a + bs.length →
      step s = .fault (.outOfRange m (max a (capacity s.params m))))

/-- A host read of a register that holds a value returns it and changes nothing in the block; a register that holds `none`
has no outcome; OP is write-only (R15, R16). R156 lets the host read result registers; that it may read the operand registers
back as well is the model's choice, log 11. Where the value is kept is the model's choice too, log 10. -/
def Obligations.HostReadsARegister : Prop :=
  ∀ (s : State) (rest : List HostAction) (r : Reg), s.pending = .readReg r :: rest →
    (r = .op → step s = .refused (.writeOnlyRegister .op)) ∧
    (r ≠ .op → s.reg r = none → step s = .refused (.noRegisterValue r)) ∧
    (∀ v, r ≠ .op → s.reg r = some v → step s = .next { s with pending := rest, hostRead := some v })

/-- A host read of a byte that holds a value returns it and changes nothing in the block; a byte that holds `none` has no
outcome (R16, R36). A read at or beyond the capacity is of an index that does not exist and faults, log 12; where the value is
kept is the model's choice, log 10. -/
def Obligations.HostReadsAByte : Prop :=
  ∀ (s : State) (rest : List HostAction) (m : MemName) (i : Nat), s.pending = .readByte m i :: rest →
    (capacity s.params m ≤ i → step s = .fault (.outOfRange m i)) ∧
    (i < capacity s.params m → Memory.read (s.mem m) i = none → step s = .refused (.noByteValue m i)) ∧
    (∀ v : Byte, i < capacity s.params m → Memory.read (s.mem m) i = some v →
      step s = .next { s with pending := rest, hostRead := some (v.setWidth 16) })

/-- Reset applied by the host in any state: every register and byte holds `none` afterwards (R165, R166). -/
def Obligations.HostResetClearsEverything : Prop :=
  ∀ (s : State) (rest : List HostAction), s.pending = .reset :: rest →
    ∃ t, step s = .next t ∧ (∀ r : Reg, t.reg r = none) ∧ (∀ (m : MemName) (i : Nat), Memory.read (t.mem m) i = none) ∧
      t.params = s.params ∧ t.pending = rest

/-- No operand value and no content of BUF or PAY makes an issue stop: with valued operand registers and valued memories
every code completes, and the host's next access is next (R140, R142, R175). -/
def Obligations.EveryIssueCompletes : Prop :=
  ∀ (s : State) (code : Byte) (rest : List HostAction),
    s.params.Wf → MemoriesValued s → OperandsValued (decodeOp code) s → s.pending = .issue code :: rest →
      ∃ t, step s = .next t ∧ t.pending = rest ∧ t.operands.op = some code

/-- An issue has no outcome, and nothing stands in for what is missing (R16, R25): where one of its operand registers holds
`none` the refusal names such a register, and where its operand registers hold values and a byte that it reads holds `none`
the refusal names such a byte. Every row of the build, with or without HAS_AUX. That an operand register is needed also
where the status is settled without it, and a byte only where it is read, is the model's choice, log 6, log 7. -/
def Obligations.IssueWithoutOperandRefused : Prop :=
  ∀ (i : Instr) (s : State), Present i s →
    (¬ OperandsValued i s → ∃ r ∈ operandsRead i, s.reg r = none ∧ exec i s = .refused (.noRegisterValue r)) ∧
    (∀ (m : MemName) (a : Nat), OperandsValued i s → ReadsByte i s m a → Memory.read (s.mem m) a = none →
      ∃ m' a', ReadsByte i s m' a' ∧ Memory.read (s.mem m') a' = none ∧ exec i s = .refused (.noByteValue m' a'))

/-- Bounds (R39, R141): with parameters that meet R6 no operation makes an access outside BUF or PAY, whatever the
operands and contents. -/
def Obligations.OperationsStayInBounds : Prop :=
  ∀ (code : Byte) (s : State) (f : Fault), s.params.Wf → exec (decodeOp code) s ≠ .fault f

/-! ### What every operation leaves alone -/

/-- A row that goes on writes no register outside its own set, no operand register, and not PAY (R24). -/
def Obligations.RegistersOutsideWriteSetKept : Prop :=
  ∀ (i : Instr) (s t : State), exec i s = .next t →
    (∀ r : Reg, r ∉ registersWritten i → t.reg r = s.reg r) ∧
    t.operands = s.operands ∧ t.pay = s.pay ∧ t.params = s.params ∧ t.pending = s.pending ∧ t.hostRead = s.hostRead

/-- DECODE, CRC8, CRC16, CLASSIFY, DISPATCH, FLIGHTDATA and an illegal code write no memory at all: every byte of BUF and of
PAY reads as before (R24). -/
def Obligations.ReadingOperationsKeepBuf : Prop :=
  ∀ (i : Instr) (s t : State), storesToBuf i = false → exec i s = .next t →
    ∀ (m : MemName) (a : Nat), Memory.read (t.mem m) a = Memory.read (s.mem m) a

/-- Every issue that completes overwrites STATUS with one of the codes 0 to 6 (R15). -/
def Obligations.IssueOverwritesStatus : Prop :=
  ∀ (code : Byte) (s t : State), exec (decodeOp code) s = .next t → ∃ v : Byte, t.status = some v ∧ v.toNat ≤ 6

/-- An operation that ends with an error (R146): the code in STATUS, `none` in each of its own results, and nothing else
changed; an illegal operation writes STATUS alone. -/
def Obligations.ErrorLeavesNoPartialResult : Prop :=
  ∀ (code : Byte) (s t : State), exec (decodeOp code) s = .next t → t.status ≠ some 0 →
    (∃ v : Byte, t.status = some v ∧ 1 ≤ v.toNat ∧ v.toNat ≤ 6) ∧
    (∀ (m : MemName) (a : Nat), Memory.read (t.mem m) a = Memory.read (s.mem m) a) ∧
    (∀ r : Reg, r ∉ registersWritten (decodeOp code) → t.reg r = s.reg r) ∧
    (t.status ≠ some 6 → ∀ r ∈ registersWritten (decodeOp code), r ≠ .status → t.reg r = none) ∧
    (t.status = some 6 → t = { s with status := some 6 })

/-- The result of a row is a function of its operands: two states that agree on the build, the operand registers and the
memories give the same results, whatever earlier operations left in the result registers (R11, R145). An auxiliary
operation of a build without HAS_AUX has no results but STATUS, `OperationSelectCode`. -/
def Obligations.ResultsDoNotDependOnHistory : Prop :=
  ∀ (i : Instr) (s s' t : State), Present i s → SameInputs s s' → exec i s = .next t →
    ∃ t', exec i s' = .next t' ∧ t'.buf = t.buf ∧ ∀ r ∈ registersWritten i, t'.reg r = t.reg r

/-! ### CRC8 and CRC16 -/

/-- CRC8 (R74): both outcomes. The sum of START and COUNT does not wrap around. -/
def Obligations.Crc8Outcome : Prop :=
  decodeOp 0x01 = .crc8 ∧
  ∀ (s : State) (a n : Half), s.operands.start = some a → s.operands.count = some n →
    (s.params.bufCap < a.toNat + n.toNat → exec .crc8 s = .next { s with status := some 5, crc8Out := none }) ∧
    (∀ bs : List Byte, a.toNat + n.toNat ≤ s.params.bufCap → bs.length = n.toNat → Holds s.buf a.toNat bs →
      exec .crc8 s = .next { s with status := some 0, crc8Out := some (s.params.crc8 bs) })

/-- CRC16 (R75): both outcomes. -/
def Obligations.Crc16Outcome : Prop :=
  decodeOp 0x02 = .crc16 ∧
  ∀ (s : State) (a n : Half), s.operands.start = some a → s.operands.count = some n →
    (s.params.bufCap < a.toNat + n.toNat → exec .crc16 s = .next { s with status := some 5, crc16Out := none }) ∧
    (∀ bs : List Byte, a.toNat + n.toNat ≤ s.params.bufCap → bs.length = n.toNat → Holds s.buf a.toNat bs →
      exec .crc16 s = .next { s with status := some 0, crc16Out := some (s.params.crc16 bs) })

/-- TELLO_CRC8 by look-ups in the 256 entries of T8 equals its bit-serial form, for every input (R76 to R78). -/
def Obligations.TelloCrc8TableEqualsBitSerial : Prop :=
  ∀ s : List Byte, telloCrc8 s = telloCrc8Serial s ∧
    s.foldl (fun (c b : Byte) => t8Table.getD (c ^^^ b).toNat 0) 0x77 = telloCrc8Serial s

/-- TELLO_CRC16 by look-ups in the 256 entries of T16 equals its bit-serial form, for every input (R79 to R81). -/
def Obligations.TelloCrc16TableEqualsBitSerial : Prop :=
  ∀ s : List Byte, telloCrc16 s = telloCrc16Serial s ∧
    s.foldl (fun (c : Half) (b : Byte) => t16Table.getD ((c ^^^ b.setWidth 16) &&& 0xFF).toNat 0 ^^^ (c >>> 8)) 0x3692 =
      telloCrc16Serial s

/-- The default instance is affine: for sequences of equal length, the checksum of the exclusive or is the checksum of
one exclusive-or the same algorithm, started from 0, on the other (R82 b). -/
def Obligations.TelloChecksumsAreAffine : Prop :=
  ∀ s e : List Byte, s.length = e.length →
    telloCrc8 (List.zipWith (· ^^^ ·) s e) = telloCrc8 s ^^^ e.foldl (fun c b => t8 (c ^^^ b)) 0 ∧
    telloCrc16 (List.zipWith (· ^^^ ·) s e) = telloCrc16 s ^^^ e.foldl crc16Byte 0

/-- The default instance notices every single changed bit, at every length, and so has P8 and P16 (R82 c, R83). -/
def Obligations.TelloChecksumsNoticeEveryBit : Prop :=
  (∀ (s : List Byte) (k : Nat), k < 8 * s.length →
    telloCrc8 (flipBit s k) ≠ telloCrc8 s ∧ telloCrc16 (flipBit s k) ≠ telloCrc16 s) ∧
  P8 telloCrc8 ∧ P16 telloCrc16

/-- The default instance on no byte, and its check values on "123456789" (R82 a, d). -/
def Obligations.TelloCheckValues : Prop :=
  telloCrc8 [] = 0x77 ∧ telloCrc16 [] = 0x3692 ∧
  telloCrc8 [0x31, 0x32, 0x33, 0x34, 0x35, 0x36, 0x37, 0x38, 0x39] = 0xFB ∧
  telloCrc16 [0x31, 0x32, 0x33, 0x34, 0x35, 0x36, 0x37, 0x38, 0x39] = 0x7109

/-! ### DECODE -/

/-- A valid gram (R87): every one of the thirteen result registers, STATUS 0, and nothing else. The magic, the low size bits,
the direction, type, subtype, id and sequence are not tested (R95). Bytes at and after the gram's end are not read (R39, R94);
that they need hold no value, although RLEN counts them, is the model's choice, log 6. -/
def Obligations.DecodeOfAValidGram : Prop :=
  ∀ (s : State) (n : Half) (b : List Byte),
    let sf := le16 (byteAt b 1) (byteAt b 2)
    let st := le16 (byteAt b (b.length - 2)) (byteAt b (b.length - 1))
    let d := byteAt b 4
    s.operands.rlen = some n → n.toNat ≤ s.params.bufCap → b.length ≤ n.toNat → 11 ≤ b.length →
    Holds s.buf 0 b → sf.toNat / 8 = b.length →
    s.params.crc8 (b.take 3) = byteAt b 3 → s.params.crc16 (b.take (b.length - 2)) = st →
      exec .decode s = .next { s with
        status := some 0
        gram := {
          header := some (byteAt b 0)
          sizef := some sf
          size := some (BitVec.ofNat 16 b.length)
          crc8 := some (byteAt b 3)
          disc := some d
          dir := some (if d.getLsbD 7 then 2 else if d.getLsbD 6 then 1 else 0)
          kind := some (d.extractLsb' 3 3)
          subtype := some (d.extractLsb' 0 3)
          id := some (le16 (byteAt b 5) (byteAt b 6))
          seq := some (le16 (byteAt b 7) (byteAt b 8))
          poff := some 9
          plen := some (BitVec.ofNat 16 (b.length - 11))
          crc16 := some st } }

/-- RLEN beyond the capacity is BadOperand before anything else, whatever BUF holds (R104). -/
def Obligations.DecodeBeyondCapacity : Prop :=
  ∀ (s : State) (n : Half), s.operands.rlen = some n → s.params.bufCap < n.toNat →
    exec .decode s = .next { s with status := some 5, gram := .none }

/-- Fewer than 11 received bytes are TooShort whatever BUF holds: no byte is read (R88). -/
def Obligations.DecodeTooShort : Prop :=
  ∀ (s : State) (n : Half), s.params.Wf → s.operands.rlen = some n → n.toNat < 11 →
    exec .decode s = .next { s with status := some 1, gram := .none }

/-- A total length above RLEN or below 11 is SizeMismatch, whatever the rest of BUF holds; a length from 11 to RLEN, RLEN
itself included, is not (R89). -/
def Obligations.DecodeSizeMismatch : Prop :=
  ∀ (s : State) (n : Half) (lo hi : Byte),
    s.operands.rlen = some n → n.toNat ≤ s.params.bufCap → 11 ≤ n.toNat →
    Memory.read s.buf 1 = some lo → Memory.read s.buf 2 = some hi →
    ((n.toNat < (le16 lo hi).toNat / 8 ∨ (le16 lo hi).toNat / 8 < 11) →
      exec .decode s = .next { s with status := some 2, gram := .none }) ∧
    (∀ t : State, (le16 lo hi).toNat / 8 ≤ n.toNat → 11 ≤ (le16 lo hi).toNat / 8 → exec .decode s = .next t →
      t.status ≠ some 2)

/-- With sane lengths, either stored checksum that differs from the recomputed one is ChecksumInvalid (R90). Bytes at and
after the gram's end are not read (R39, R94); that they need hold no value is the model's choice, log 6. -/
def Obligations.DecodeChecksumInvalid : Prop :=
  ∀ (s : State) (n : Half) (b : List Byte),
    s.operands.rlen = some n → n.toNat ≤ s.params.bufCap → b.length ≤ n.toNat → 11 ≤ b.length →
    Holds s.buf 0 b → (le16 (byteAt b 1) (byteAt b 2)).toNat / 8 = b.length →
    (s.params.crc8 (b.take 3) ≠ byteAt b 3 ∨
      s.params.crc16 (b.take (b.length - 2)) ≠ le16 (byteAt b (b.length - 2)) (byteAt b (b.length - 1))) →
      exec .decode s = .next { s with status := some 3, gram := .none }

/-- The device's DECODE is the functional layer's F_decode on the received bytes: the same error, or the gram in the
result registers (R86, R87). -/
def Obligations.DecodeComputesFDecode : Prop :=
  ∀ (s : State) (n : Half) (b : List Byte),
    s.operands.rlen = some n → n.toNat ≤ s.params.bufCap → b.length = n.toNat → Holds s.buf 0 b →
      (∀ e, decodeGram s.params.crc8 s.params.crc16 b n.toNat = .error e →
        exec .decode s = .next { s with status := some (statusOfGramError e).code, gram := .none }) ∧
      (∀ g, decodeGram s.params.crc8 s.params.crc16 b n.toNat = .ok g →
        exec .decode s = .next { s with status := some 0, gram := gramRegs g })

/-- Bytes after the gram do not matter: the same gram decodes the same from any buffer that begins with it (R94). -/
def Obligations.TrailingBytesIgnored : Prop :=
  ∀ (c8 : List Byte → Byte) (c16 : List Byte → Half) (b b' : List Byte) (n n' : Nat) (g : Gram),
    n ≤ b.length → n' ≤ b'.length → decodeGram c8 c16 b n = .ok g →
    g.size.toNat ≤ n' → b'.take g.size.toNat = b.take g.size.toNat → decodeGram c8 c16 b' n' = .ok g

/-- DECODE is idempotent, writes no memory, and reads no register but RLEN (R99). -/
def Obligations.DecodeIdempotent : Prop :=
  ∀ s t : State, exec .decode s = .next t →
    exec .decode t = .next t ∧ t.buf = s.buf ∧ t.pay = s.pay ∧
    ∀ s' : State, s'.params = s.params → s'.operands.rlen = s.operands.rlen → s'.buf = s.buf →
      exec .decode s' = .next { s' with status := t.status, gram := t.gram }

/-! ### ENCODE -/

/-- ENCODE (R107): both outcomes. BUF at and after the new gram keeps what it held (R111). -/
def Obligations.EncodeOutcome : Prop :=
  decodeOp 0x04 = .encode ∧
  ∀ (s : State) (kind : Byte) (mid seq plen : Half),
    s.operands.kind = some kind → s.operands.mid = some mid → s.operands.seq = some seq → s.operands.plen = some plen →
    (s.params.maxPayload < plen.toNat → exec .encode s = .next { s with status := some 5, elen := none }) ∧
    (∀ p : List Byte, s.params.Wf → plen.toNat ≤ s.params.maxPayload → p.length = plen.toNat → Holds s.pay 0 p →
      ∃ m, exec .encode s = .next { s with status := some 0, elen := some (BitVec.ofNat 16 (11 + plen.toNat)), buf := m } ∧
        StoredAt s.buf m 0 (encodeGram s.params.crc8 s.params.crc16 kind mid seq p))

/-- What each byte of an encoded gram is (R108): magic, size field 8 times the total length, both checksums over the bytes
as they finally stand, discriminator, id, sequence and payload, every 16-bit field low byte first. -/
def Obligations.EncodedBytesAreTheFields : Prop :=
  ∀ (c8 : List Byte → Byte) (c16 : List Byte → Half) (kind : Byte) (id seq : Half) (p : List Byte), p.length ≤ 8180 →
    let o := encodeGram c8 c16 kind id seq p
    let n := p.length
    o.length = 11 + n ∧
    byteAt o 0 = 0xCC ∧
    (byteAt o 1).toNat + 256 * (byteAt o 2).toNat = 8 * (11 + n) ∧
    byteAt o 3 = c8 (o.take 3) ∧
    (byteAt o 4).toNat = 64 + 8 * (kind.toNat % 8) ∧
    (byteAt o 5).toNat + 256 * (byteAt o 6).toNat = id.toNat ∧
    (byteAt o 7).toNat + 256 * (byteAt o 8).toNat = seq.toNat ∧
    (∀ k < n, byteAt o (9 + k) = byteAt p k) ∧
    (byteAt o (9 + n)).toNat + 256 * (byteAt o (10 + n)).toNat = (c16 (o.take (9 + n))).toNat

/-- The discriminator ENCODE builds: ToDrone, the low three bits of KIND, subtype 0; the upper bits of KIND have no
effect (R56, R109). -/
def Obligations.EncodedDiscriminator : Prop :=
  ∀ kind : Byte, directionOf (discriminatorFor kind) = .toDrone ∧ kindOf (discriminatorFor kind) = kind.extractLsb' 0 3 ∧
    subtypeOf (discriminatorFor kind) = 0 ∧ discriminatorFor kind = discriminatorFor (kind &&& 7)

/-- Left inverse (R112), for every pair of checksum functions: F_decode of an encoded gram, with any bytes after it, gives
every field back. -/
def Obligations.DecodeUndoesEncode : Prop :=
  ∀ (c8 : List Byte → Byte) (c16 : List Byte → Half) (kind : Byte) (id seq : Half) (p after : List Byte) (n : Nat),
    p.length ≤ 8180 → 11 + p.length ≤ n → n ≤ 11 + p.length + after.length →
    let g := encodeGram c8 c16 kind id seq p
    let sf := BitVec.ofNat 16 (8 * (11 + p.length))
    decodeGram c8 c16 (g ++ after) n = .ok {
      header := 0xCC
      sizeField := sf
      size := BitVec.ofNat 16 (11 + p.length)
      crc8 := c8 [0xCC, lowByte sf, highByte sf]
      discriminator := 0x40#8 ||| ((kind.extractLsb' 0 3).setWidth 8 <<< 3)
      direction := .toDrone
      kind := kind.extractLsb' 0 3
      subtype := 0
      id := id
      sequence := seq
      payload := p
      crc16 := c16 (g.take (9 + p.length)) }

/-- On the device (R112): after an ENCODE that succeeded, `RLEN <- ELEN; DECODE` succeeds and gives KIND's low three bits,
MID, SEQ, PLEN and the payload back. -/
def Obligations.EncodeThenDecodeOnTheDevice : Prop :=
  ∀ (s t : State) (e : Half), s.params.Wf → exec .encode s = .next t → t.status = some 0 → t.elen = some e →
    ∃ u, exec .decode { t with operands := { t.operands with rlen := some e } } = .next u ∧
      u.status = some 0 ∧ u.gram.kind = s.operands.kind.map (·.extractLsb' 0 3) ∧ u.gram.id = s.operands.mid ∧
      u.gram.seq = s.operands.seq ∧ u.gram.plen = s.operands.plen ∧
      ∀ n, s.operands.plen = some n → ∀ k < n.toNat, Memory.read u.buf (9 + k) = Memory.read s.pay k

/-- Encoding a decoded gram rebuilds it when the gram was of the form ENCODE makes: magic 0xCC, direction bits 01, subtype
0, size-field low bits 0 (R113). -/
def Obligations.EncodeRebuildsACanonicalGram : Prop :=
  ∀ (c8 : List Byte → Byte) (c16 : List Byte → Half) (b : List Byte) (n : Nat) (g : Gram),
    n ≤ b.length → decodeGram c8 c16 b n = .ok g → g.header = 0xCC → g.discriminator.extractLsb' 6 2 = 1 →
    g.subtype = 0 → g.sizeField.extractLsb' 0 3 = 0 →
      encodeGram c8 c16 (g.kind.setWidth 8) g.id g.sequence g.payload = b.take g.size.toNat

/-- Single-bit sensitivity (R98): a single changed bit of an encoded gram is never accepted, and which error it gives,
for checksum functions with P8 and P16. Bits 11 to 23 of the gram are bits 15 to 3 of the size field, and changing bit
`k` of them changes bit `k - 11` of the total length. -/
def Obligations.SingleBitChangeRejected : Prop :=
  ∀ (c8 : List Byte → Byte) (c16 : List Byte → Half), P8 c8 → P16 c16 →
  ∀ (kind : Byte) (id seq : Half) (p : List Byte) (k : Nat), p.length ≤ 8180 → k < 8 * (11 + p.length) →
    let len := 11 + p.length
    let len' := len ^^^ 2 ^ (k - 11)
    decodeGram c8 c16 (flipBit (encodeGram c8 c16 kind id seq p) k) len =
      .error (if 11 ≤ k ∧ k < 24 ∧ (len < len' ∨ len' < 11) then .sizeMismatch else .checksumInvalid)

/-- ENCODE produces the header of the row GRAM_TODRONE and no other (R107). -/
def Obligations.EncodeBuildsTheTodroneHeader : Prop :=
  ∀ (c8 : List Byte → Byte) (c16 : List Byte → Half) (kind : Byte) (id seq : Half) (p : List Byte), p.length ≤ 8180 →
    (encodeGram c8 c16 kind id seq p).take 9 =
      encode (.gramTodrone (BitVec.ofNat 13 (11 + p.length)) (c8 (shortHeader (11 + p.length))) (kind.extractLsb' 0 3)
        id seq)

/-- The keepalive gram (R114): what ENCODE builds for kind 4, id 0x0025 and no payload is the row GRAM_KEEPALIVE. The
pseudo-operations of R70 as host programs are in `PseudoOperations`. -/
def Obligations.KeepaliveGramBytes : Prop :=
  ∀ (c8 : List Byte → Byte) (c16 : List Byte → Half) (seq : Half),
    let c := c8 [0xCC, 0x58, 0x00]
    encodeGram c8 c16 4 0x0025 seq [] =
      encode (.gramKeepalive c seq (c16 [0xCC, 0x58, 0x00, c, 0x60, 0x25, 0x00, lowByte seq, highByte seq]))

/-! ### The auxiliary operations and illegal codes -/

/-- CLASSIFY (R121): BadOperand, too few bytes (BUF is not read), and the comparison of the nine bytes. -/
def Obligations.ClassifyOutcome : Prop :=
  decodeOp 0x05 = .classify ∧
  ∀ (s : State) (n : Half), s.params.hasAux = true → s.operands.rlen = some n →
    (s.params.bufCap < n.toNat → exec .classify s = .next { s with status := some 5, cls := none }) ∧
    (n.toNat ≤ s.params.bufCap → n.toNat < 9 → exec .classify s = .next { s with status := some 0, cls := some 0 }) ∧
    (∀ b : List Byte, n.toNat ≤ s.params.bufCap → 9 ≤ n.toNat → b.length = 9 → Holds s.buf 0 b →
      exec .classify s = .next { s with
        status := some 0
        cls := some (if b = [0x63, 0x6F, 0x6E, 0x6E, 0x5F, 0x61, 0x63, 0x6B, 0x3A] then 1 else 0) })

/-- HSREQ (R123): the eleven bytes "conn_req:" and the port, low byte first; the rest of BUF is unchanged. -/
def Obligations.HsreqOutcome : Prop :=
  decodeOp 0x06 = .hsreq ∧
  ∀ (s : State) (port : Half), s.params.Wf → s.params.hasAux = true → s.operands.port = some port →
    ∃ m, exec .hsreq s = .next { s with status := some 0, elen := some 11, buf := m } ∧
      StoredAt s.buf m 0
        [0x63, 0x6F, 0x6E, 0x6E, 0x5F, 0x72, 0x65, 0x71, 0x3A, port.extractLsb' 0 8, port.extractLsb' 8 8]

/-- DISPATCH (R126): the class of all 16 bits of MID; no memory is touched and it cannot fail. -/
def Obligations.DispatchOutcome : Prop :=
  decodeOp 0x07 = .dispatch ∧
  ∀ (s : State) (mid : Half), s.params.hasAux = true → s.operands.mid = some mid →
    exec .dispatch s = .next { s with
      status := some 0
      dclass := some (if mid = 0x0056 then 2 else if mid = 0x0002 then 1 else 0) }

/-- FLIGHTDATA (R128): BadOperand, then LengthMismatch, then the three fields. The other bytes of the payload are not read
(R69); that they need hold no value, although R156 asks the host for them, is the model's choice, log 6. -/
def Obligations.FlightdataOutcome : Prop :=
  decodeOp 0x08 = .flightdata ∧
  ∀ (s : State) (a n : Half), s.params.hasAux = true → s.operands.start = some a → s.operands.count = some n →
    (s.params.bufCap < a.toNat + n.toNat → exec .flightdata s = .next { s with status := some 5, flight := .none }) ∧
    (a.toNat + n.toNat ≤ s.params.bufCap → n.toNat ≠ 24 →
      exec .flightdata s = .next { s with status := some 4, flight := .none }) ∧
    (∀ lo hi batt cam : Byte, a.toNat + n.toNat ≤ s.params.bufCap → n.toNat = 24 →
      Memory.read s.buf a.toNat = some lo → Memory.read s.buf (a.toNat + 1) = some hi →
      Memory.read s.buf (a.toNat + 12) = some batt → Memory.read s.buf (a.toNat + 20) = some cam →
      exec .flightdata s = .next { s with
        status := some 0
        flight := { height := some (le16 lo hi), batt := some batt, cam := some cam } })

/-- FLIGHTDATA on a payload that decode_flight_data decodes gives that record's fields (R61, R128). -/
def Obligations.FlightdataComputesTheRecord : Prop :=
  ∀ (s : State) (a : Half) (p : List Byte) (f : FlightData), s.params.hasAux = true → s.operands.start = some a →
    s.operands.count = some 24 → a.toNat + 24 ≤ s.params.bufCap → Holds s.buf a.toNat p → decodeFlightData p = .ok f →
      exec .flightdata s = .next { s with
        status := some 0
        flight := { height := some f.height, batt := some f.battery, cam := some f.camera } }

/-- The operation select code (R66): eight codes select the eight operations. Every other code, and 0x05 to 0x08 in a build
without HAS_AUX, writes STATUS 6 and nothing else, whatever the operand registers hold. -/
def Obligations.OperationSelectCode : Prop :=
  (decodeOp 0x01 = .crc8 ∧ decodeOp 0x02 = .crc16 ∧ decodeOp 0x03 = .decode ∧ decodeOp 0x04 = .encode ∧
    decodeOp 0x05 = .classify ∧ decodeOp 0x06 = .hsreq ∧ decodeOp 0x07 = .dispatch ∧ decodeOp 0x08 = .flightdata) ∧
  ∀ (code : Byte) (s : State),
    (code = 0 ∨ 9 ≤ code.toNat ∨ (5 ≤ code.toNat ∧ code.toNat ≤ 8 ∧ s.params.hasAux = false)) →
      exec (decodeOp code) s = .next { s with status := some 6 }

/-- An illegal code writes STATUS 6 and nothing else, in every state (R66). -/
def Obligations.IllegalCodeOutcome : Prop :=
  ∀ (code : Byte) (s : State), exec (.illegal code) s = .next { s with status := some 6 }

/-- No gram ENCODE builds is taken for a handshake acknowledgement: CLASSIFY after a successful ENCODE gives 0, for every
RLEN that lies in the gram (R63 a). -/
def Obligations.EncodedGramIsNoAcknowledgement : Prop :=
  ∀ (s t : State) (e n : Half), s.params.Wf → s.params.hasAux = true → exec .encode s = .next t → t.status = some 0 →
    t.elen = some e → n.toNat ≤ e.toNat →
      let u := { t with operands := { t.operands with rlen := some n } }
      exec .classify u = .next { u with status := some 0, cls := some 0 }

/-! ### The receive path -/

/-- The receive path (R130, R157, R158) reaches its end for every datagram that fits BUF, from every state of the block, and
what the host concludes is fixed by the datagram: the prefix test first, then F_decode, then the class of the id, then the
payload's length. In a build without HAS_AUX, where R130 does not apply, that the host makes the prefix test itself and that
the path ends at the decoded gram is the model's choice, log 26. -/
def Obligations.ReceivePathConcludes : Prop :=
  ∀ (s : State) (d : List Byte), s.params.Wf → d.length ≤ s.params.bufCap →
    ∃ t, receiveDatagram d s = .next (t,
      if isHandshakeAck d d.length then .handshakeComplete
      else
        match decodeGram s.params.crc8 s.params.crc16 d d.length with
        | .error _ => .dropped
        | .ok g =>
          if s.params.hasAux then
            match classOfId g.id with
            | .flightData => if g.payload.length = 24 then .telemetry else .telemetryError
            | .connectAckEcho => .connectAckEcho
            | .unhandled => .unhandled
          else .decoded)

/-! ### The wire-format rows -/

/-- Each of the nine wire-format rows stores its bytes at its format's place in BUF and changes nothing else (R38, R50,
R61, R68). That a row means this store is the model's choice, log 13. -/
def Obligations.WireRowsStoreTheirBytes : Prop :=
  ∀ s : State,
    (∀ len low c8 f d kind sub id seq, PlacesRow (.gramHeader len low c8 f d kind sub id seq) 0 s) ∧
    (∀ len c8 kind id seq, PlacesRow (.gramTodrone len c8 kind id seq) 0 s) ∧
    (∀ c8 seq c16, PlacesRow (.gramKeepalive c8 seq c16) 0 s) ∧
    PlacesRow .msgConnectAckEcho 5 s ∧ PlacesRow .msgKeepalive 5 s ∧ PlacesRow .msgFlightData 5 s ∧
    (∀ port, PlacesRow (.hsConnReq port) 0 s) ∧ PlacesRow .hsConnAck 0 s ∧
    (∀ height batt cam g2 g13 g21, PlacesRow (.flightDataPayload height batt cam g2 g13 g21) 9 s)

/-- The acknowledgement row is what CLASSIFY recognises: after it is placed, CLASSIFY of at least nine received bytes
gives 1 (R60, R121). That the row means a store of its bytes at index 0 of BUF is the model's choice, log 13. -/
def Obligations.PlacedAcknowledgementClassifies : Prop :=
  ∀ (s t : State) (n : Half), s.params.hasAux = true → s.operands.rlen = some n → 9 ≤ n.toNat →
    n.toNat ≤ s.params.bufCap → exec .hsConnAck s = .next t →
      exec .classify t = .next { t with status := some 0, cls := some 1 }

/-- The flight-data row is what FLIGHTDATA unpacks: after a well-formed one is placed, FLIGHTDATA at index 9 gives its
three fields (R61, R128). That the row means a store of its bytes at index 9 of BUF is the model's choice, log 13. -/
def Obligations.PlacedFlightDataUnpacks : Prop :=
  ∀ (s t : State) (height : Half) (batt cam : Byte) (g2 g13 g21 : List Byte),
    let row := Instr.flightDataPayload height batt cam g2 g13 g21
    row.WellFormed = true → s.params.hasAux = true → s.operands.start = some 9 → s.operands.count = some 24 →
    exec row s = .next t →
      exec .flightdata t = .next { t with
        status := some 0
        flight := { height := some height, batt := some batt, cam := some cam } }

/-! ### The pseudo-operations -/

/-- The pseudo-operations (R70): KEEPALIVE leaves the keepalive gram of R114 in BUF, CRC8_HDR and CRC16_BODY give the
checksums over the ranges of the two checksum fields, and IS_VALID reads 0 exactly where F_decode accepts. -/
def Obligations.PseudoOperations : Prop :=
  ∀ s : State, s.params.Wf →
    (let c := s.params.crc8 [0xCC, 0x58, 0x00]
     ∃ m, runActions keepaliveActions s = .next { s with
         operands := { s.operands with
           op := some 4, kind := some 4, mid := some 0x0025, seq := some 0, plen := some 0 }
         status := some 0
         elen := some 11
         buf := m } ∧
       StoredAt s.buf m 0
         (encode (.gramKeepalive c 0 (s.params.crc16 [0xCC, 0x58, 0x00, c, 0x60, 0x25, 0x00, 0x00, 0x00])))) ∧
    (∀ b : List Byte, b.length = 3 → Holds s.buf 0 b →
      runActions crc8HdrActions s = .next { s with
        operands := { s.operands with op := some 1, start := some 0, count := some 3 }
        status := some 0
        crc8Out := some (s.params.crc8 b) }) ∧
    (∀ (n : Half) (b : List Byte), 11 ≤ n.toNat → n.toNat ≤ s.params.bufCap → b.length = n.toNat - 2 → Holds s.buf 0 b →
      runActions (crc16BodyActions n) s = .next { s with
        operands := { s.operands with op := some 2, start := some 0, count := some (n - 2) }
        status := some 0
        crc16Out := some (s.params.crc16 b) }) ∧
    (∀ (n : Half) (b : List Byte), s.operands.rlen = some n → n.toNat ≤ s.params.bufCap → b.length = n.toNat →
      Holds s.buf 0 b →
        ∃ t, runActions isValidActions s = .next t ∧
          (t.hostRead = some 0 ↔ ∃ g, decodeGram s.params.crc8 s.params.crc16 b n.toNat = .ok g))
end

