-- ==== Sys2Proof/Laws/State.lean ====
section
/-! SUPPORT. One lemma per field per named update of the state, so that no proof unfolds a record update. -/

namespace Sys2Proof.Machine

/-! #### `setOperands` -/

@[simp] theorem State.setOperands_params (s : State) (v : OperandRegs) : (s.setOperands v).params = s.params := rfl
@[simp] theorem State.setOperands_operands (s : State) (v : OperandRegs) : (s.setOperands v).operands = v := rfl
@[simp] theorem State.setOperands_status (s : State) (v : OperandRegs) : (s.setOperands v).status = s.status := rfl
@[simp] theorem State.setOperands_crc8Out (s : State) (v : OperandRegs) : (s.setOperands v).crc8Out = s.crc8Out := rfl
@[simp] theorem State.setOperands_crc16Out (s : State) (v : OperandRegs) : (s.setOperands v).crc16Out = s.crc16Out := rfl
@[simp] theorem State.setOperands_gram (s : State) (v : OperandRegs) : (s.setOperands v).gram = s.gram := rfl
@[simp] theorem State.setOperands_elen (s : State) (v : OperandRegs) : (s.setOperands v).elen = s.elen := rfl
@[simp] theorem State.setOperands_cls (s : State) (v : OperandRegs) : (s.setOperands v).cls = s.cls := rfl
@[simp] theorem State.setOperands_dclass (s : State) (v : OperandRegs) : (s.setOperands v).dclass = s.dclass := rfl
@[simp] theorem State.setOperands_flight (s : State) (v : OperandRegs) : (s.setOperands v).flight = s.flight := rfl
@[simp] theorem State.setOperands_buf (s : State) (v : OperandRegs) : (s.setOperands v).buf = s.buf := rfl
@[simp] theorem State.setOperands_pay (s : State) (v : OperandRegs) : (s.setOperands v).pay = s.pay := rfl
@[simp] theorem State.setOperands_pending (s : State) (v : OperandRegs) : (s.setOperands v).pending = s.pending := rfl
@[simp] theorem State.setOperands_hostRead (s : State) (v : OperandRegs) : (s.setOperands v).hostRead = s.hostRead := rfl

/-! #### `setStatus` -/

@[simp] theorem State.setStatus_params (s : State) (v : Option Byte) : (s.setStatus v).params = s.params := rfl
@[simp] theorem State.setStatus_operands (s : State) (v : Option Byte) : (s.setStatus v).operands = s.operands := rfl
@[simp] theorem State.setStatus_status (s : State) (v : Option Byte) : (s.setStatus v).status = v := rfl
@[simp] theorem State.setStatus_crc8Out (s : State) (v : Option Byte) : (s.setStatus v).crc8Out = s.crc8Out := rfl
@[simp] theorem State.setStatus_crc16Out (s : State) (v : Option Byte) : (s.setStatus v).crc16Out = s.crc16Out := rfl
@[simp] theorem State.setStatus_gram (s : State) (v : Option Byte) : (s.setStatus v).gram = s.gram := rfl
@[simp] theorem State.setStatus_elen (s : State) (v : Option Byte) : (s.setStatus v).elen = s.elen := rfl
@[simp] theorem State.setStatus_cls (s : State) (v : Option Byte) : (s.setStatus v).cls = s.cls := rfl
@[simp] theorem State.setStatus_dclass (s : State) (v : Option Byte) : (s.setStatus v).dclass = s.dclass := rfl
@[simp] theorem State.setStatus_flight (s : State) (v : Option Byte) : (s.setStatus v).flight = s.flight := rfl
@[simp] theorem State.setStatus_buf (s : State) (v : Option Byte) : (s.setStatus v).buf = s.buf := rfl
@[simp] theorem State.setStatus_pay (s : State) (v : Option Byte) : (s.setStatus v).pay = s.pay := rfl
@[simp] theorem State.setStatus_pending (s : State) (v : Option Byte) : (s.setStatus v).pending = s.pending := rfl
@[simp] theorem State.setStatus_hostRead (s : State) (v : Option Byte) : (s.setStatus v).hostRead = s.hostRead := rfl

/-! #### `setCrc8Out` -/

@[simp] theorem State.setCrc8Out_params (s : State) (v : Option Byte) : (s.setCrc8Out v).params = s.params := rfl
@[simp] theorem State.setCrc8Out_operands (s : State) (v : Option Byte) : (s.setCrc8Out v).operands = s.operands := rfl
@[simp] theorem State.setCrc8Out_status (s : State) (v : Option Byte) : (s.setCrc8Out v).status = s.status := rfl
@[simp] theorem State.setCrc8Out_crc8Out (s : State) (v : Option Byte) : (s.setCrc8Out v).crc8Out = v := rfl
@[simp] theorem State.setCrc8Out_crc16Out (s : State) (v : Option Byte) : (s.setCrc8Out v).crc16Out = s.crc16Out := rfl
@[simp] theorem State.setCrc8Out_gram (s : State) (v : Option Byte) : (s.setCrc8Out v).gram = s.gram := rfl
@[simp] theorem State.setCrc8Out_elen (s : State) (v : Option Byte) : (s.setCrc8Out v).elen = s.elen := rfl
@[simp] theorem State.setCrc8Out_cls (s : State) (v : Option Byte) : (s.setCrc8Out v).cls = s.cls := rfl
@[simp] theorem State.setCrc8Out_dclass (s : State) (v : Option Byte) : (s.setCrc8Out v).dclass = s.dclass := rfl
@[simp] theorem State.setCrc8Out_flight (s : State) (v : Option Byte) : (s.setCrc8Out v).flight = s.flight := rfl
@[simp] theorem State.setCrc8Out_buf (s : State) (v : Option Byte) : (s.setCrc8Out v).buf = s.buf := rfl
@[simp] theorem State.setCrc8Out_pay (s : State) (v : Option Byte) : (s.setCrc8Out v).pay = s.pay := rfl
@[simp] theorem State.setCrc8Out_pending (s : State) (v : Option Byte) : (s.setCrc8Out v).pending = s.pending := rfl
@[simp] theorem State.setCrc8Out_hostRead (s : State) (v : Option Byte) : (s.setCrc8Out v).hostRead = s.hostRead := rfl

/-! #### `setCrc16Out` -/

@[simp] theorem State.setCrc16Out_params (s : State) (v : Option Half) : (s.setCrc16Out v).params = s.params := rfl
@[simp] theorem State.setCrc16Out_operands (s : State) (v : Option Half) : (s.setCrc16Out v).operands = s.operands := rfl
@[simp] theorem State.setCrc16Out_status (s : State) (v : Option Half) : (s.setCrc16Out v).status = s.status := rfl
@[simp] theorem State.setCrc16Out_crc8Out (s : State) (v : Option Half) : (s.setCrc16Out v).crc8Out = s.crc8Out := rfl
@[simp] theorem State.setCrc16Out_crc16Out (s : State) (v : Option Half) : (s.setCrc16Out v).crc16Out = v := rfl
@[simp] theorem State.setCrc16Out_gram (s : State) (v : Option Half) : (s.setCrc16Out v).gram = s.gram := rfl
@[simp] theorem State.setCrc16Out_elen (s : State) (v : Option Half) : (s.setCrc16Out v).elen = s.elen := rfl
@[simp] theorem State.setCrc16Out_cls (s : State) (v : Option Half) : (s.setCrc16Out v).cls = s.cls := rfl
@[simp] theorem State.setCrc16Out_dclass (s : State) (v : Option Half) : (s.setCrc16Out v).dclass = s.dclass := rfl
@[simp] theorem State.setCrc16Out_flight (s : State) (v : Option Half) : (s.setCrc16Out v).flight = s.flight := rfl
@[simp] theorem State.setCrc16Out_buf (s : State) (v : Option Half) : (s.setCrc16Out v).buf = s.buf := rfl
@[simp] theorem State.setCrc16Out_pay (s : State) (v : Option Half) : (s.setCrc16Out v).pay = s.pay := rfl
@[simp] theorem State.setCrc16Out_pending (s : State) (v : Option Half) : (s.setCrc16Out v).pending = s.pending := rfl
@[simp] theorem State.setCrc16Out_hostRead (s : State) (v : Option Half) : (s.setCrc16Out v).hostRead = s.hostRead := rfl

/-! #### `setGram` -/

@[simp] theorem State.setGram_params (s : State) (v : GramRegs) : (s.setGram v).params = s.params := rfl
@[simp] theorem State.setGram_operands (s : State) (v : GramRegs) : (s.setGram v).operands = s.operands := rfl
@[simp] theorem State.setGram_status (s : State) (v : GramRegs) : (s.setGram v).status = s.status := rfl
@[simp] theorem State.setGram_crc8Out (s : State) (v : GramRegs) : (s.setGram v).crc8Out = s.crc8Out := rfl
@[simp] theorem State.setGram_crc16Out (s : State) (v : GramRegs) : (s.setGram v).crc16Out = s.crc16Out := rfl
@[simp] theorem State.setGram_gram (s : State) (v : GramRegs) : (s.setGram v).gram = v := rfl
@[simp] theorem State.setGram_elen (s : State) (v : GramRegs) : (s.setGram v).elen = s.elen := rfl
@[simp] theorem State.setGram_cls (s : State) (v : GramRegs) : (s.setGram v).cls = s.cls := rfl
@[simp] theorem State.setGram_dclass (s : State) (v : GramRegs) : (s.setGram v).dclass = s.dclass := rfl
@[simp] theorem State.setGram_flight (s : State) (v : GramRegs) : (s.setGram v).flight = s.flight := rfl
@[simp] theorem State.setGram_buf (s : State) (v : GramRegs) : (s.setGram v).buf = s.buf := rfl
@[simp] theorem State.setGram_pay (s : State) (v : GramRegs) : (s.setGram v).pay = s.pay := rfl
@[simp] theorem State.setGram_pending (s : State) (v : GramRegs) : (s.setGram v).pending = s.pending := rfl
@[simp] theorem State.setGram_hostRead (s : State) (v : GramRegs) : (s.setGram v).hostRead = s.hostRead := rfl

/-! #### `setElen` -/

@[simp] theorem State.setElen_params (s : State) (v : Option Half) : (s.setElen v).params = s.params := rfl
@[simp] theorem State.setElen_operands (s : State) (v : Option Half) : (s.setElen v).operands = s.operands := rfl
@[simp] theorem State.setElen_status (s : State) (v : Option Half) : (s.setElen v).status = s.status := rfl
@[simp] theorem State.setElen_crc8Out (s : State) (v : Option Half) : (s.setElen v).crc8Out = s.crc8Out := rfl
@[simp] theorem State.setElen_crc16Out (s : State) (v : Option Half) : (s.setElen v).crc16Out = s.crc16Out := rfl
@[simp] theorem State.setElen_gram (s : State) (v : Option Half) : (s.setElen v).gram = s.gram := rfl
@[simp] theorem State.setElen_elen (s : State) (v : Option Half) : (s.setElen v).elen = v := rfl
@[simp] theorem State.setElen_cls (s : State) (v : Option Half) : (s.setElen v).cls = s.cls := rfl
@[simp] theorem State.setElen_dclass (s : State) (v : Option Half) : (s.setElen v).dclass = s.dclass := rfl
@[simp] theorem State.setElen_flight (s : State) (v : Option Half) : (s.setElen v).flight = s.flight := rfl
@[simp] theorem State.setElen_buf (s : State) (v : Option Half) : (s.setElen v).buf = s.buf := rfl
@[simp] theorem State.setElen_pay (s : State) (v : Option Half) : (s.setElen v).pay = s.pay := rfl
@[simp] theorem State.setElen_pending (s : State) (v : Option Half) : (s.setElen v).pending = s.pending := rfl
@[simp] theorem State.setElen_hostRead (s : State) (v : Option Half) : (s.setElen v).hostRead = s.hostRead := rfl

/-! #### `setCls` -/

@[simp] theorem State.setCls_params (s : State) (v : Option (BitVec 1)) : (s.setCls v).params = s.params := rfl
@[simp] theorem State.setCls_operands (s : State) (v : Option (BitVec 1)) : (s.setCls v).operands = s.operands := rfl
@[simp] theorem State.setCls_status (s : State) (v : Option (BitVec 1)) : (s.setCls v).status = s.status := rfl
@[simp] theorem State.setCls_crc8Out (s : State) (v : Option (BitVec 1)) : (s.setCls v).crc8Out = s.crc8Out := rfl
@[simp] theorem State.setCls_crc16Out (s : State) (v : Option (BitVec 1)) : (s.setCls v).crc16Out = s.crc16Out := rfl
@[simp] theorem State.setCls_gram (s : State) (v : Option (BitVec 1)) : (s.setCls v).gram = s.gram := rfl
@[simp] theorem State.setCls_elen (s : State) (v : Option (BitVec 1)) : (s.setCls v).elen = s.elen := rfl
@[simp] theorem State.setCls_cls (s : State) (v : Option (BitVec 1)) : (s.setCls v).cls = v := rfl
@[simp] theorem State.setCls_dclass (s : State) (v : Option (BitVec 1)) : (s.setCls v).dclass = s.dclass := rfl
@[simp] theorem State.setCls_flight (s : State) (v : Option (BitVec 1)) : (s.setCls v).flight = s.flight := rfl
@[simp] theorem State.setCls_buf (s : State) (v : Option (BitVec 1)) : (s.setCls v).buf = s.buf := rfl
@[simp] theorem State.setCls_pay (s : State) (v : Option (BitVec 1)) : (s.setCls v).pay = s.pay := rfl
@[simp] theorem State.setCls_pending (s : State) (v : Option (BitVec 1)) : (s.setCls v).pending = s.pending := rfl
@[simp] theorem State.setCls_hostRead (s : State) (v : Option (BitVec 1)) : (s.setCls v).hostRead = s.hostRead := rfl

/-! #### `setDclass` -/

@[simp] theorem State.setDclass_params (s : State) (v : Option (BitVec 2)) : (s.setDclass v).params = s.params := rfl
@[simp] theorem State.setDclass_operands (s : State) (v : Option (BitVec 2)) : (s.setDclass v).operands = s.operands := rfl
@[simp] theorem State.setDclass_status (s : State) (v : Option (BitVec 2)) : (s.setDclass v).status = s.status := rfl
@[simp] theorem State.setDclass_crc8Out (s : State) (v : Option (BitVec 2)) : (s.setDclass v).crc8Out = s.crc8Out := rfl
@[simp] theorem State.setDclass_crc16Out (s : State) (v : Option (BitVec 2)) : (s.setDclass v).crc16Out = s.crc16Out := rfl
@[simp] theorem State.setDclass_gram (s : State) (v : Option (BitVec 2)) : (s.setDclass v).gram = s.gram := rfl
@[simp] theorem State.setDclass_elen (s : State) (v : Option (BitVec 2)) : (s.setDclass v).elen = s.elen := rfl
@[simp] theorem State.setDclass_cls (s : State) (v : Option (BitVec 2)) : (s.setDclass v).cls = s.cls := rfl
@[simp] theorem State.setDclass_dclass (s : State) (v : Option (BitVec 2)) : (s.setDclass v).dclass = v := rfl
@[simp] theorem State.setDclass_flight (s : State) (v : Option (BitVec 2)) : (s.setDclass v).flight = s.flight := rfl
@[simp] theorem State.setDclass_buf (s : State) (v : Option (BitVec 2)) : (s.setDclass v).buf = s.buf := rfl
@[simp] theorem State.setDclass_pay (s : State) (v : Option (BitVec 2)) : (s.setDclass v).pay = s.pay := rfl
@[simp] theorem State.setDclass_pending (s : State) (v : Option (BitVec 2)) : (s.setDclass v).pending = s.pending := rfl
@[simp] theorem State.setDclass_hostRead (s : State) (v : Option (BitVec 2)) : (s.setDclass v).hostRead = s.hostRead := rfl

/-! #### `setFlight` -/

@[simp] theorem State.setFlight_params (s : State) (v : FlightRegs) : (s.setFlight v).params = s.params := rfl
@[simp] theorem State.setFlight_operands (s : State) (v : FlightRegs) : (s.setFlight v).operands = s.operands := rfl
@[simp] theorem State.setFlight_status (s : State) (v : FlightRegs) : (s.setFlight v).status = s.status := rfl
@[simp] theorem State.setFlight_crc8Out (s : State) (v : FlightRegs) : (s.setFlight v).crc8Out = s.crc8Out := rfl
@[simp] theorem State.setFlight_crc16Out (s : State) (v : FlightRegs) : (s.setFlight v).crc16Out = s.crc16Out := rfl
@[simp] theorem State.setFlight_gram (s : State) (v : FlightRegs) : (s.setFlight v).gram = s.gram := rfl
@[simp] theorem State.setFlight_elen (s : State) (v : FlightRegs) : (s.setFlight v).elen = s.elen := rfl
@[simp] theorem State.setFlight_cls (s : State) (v : FlightRegs) : (s.setFlight v).cls = s.cls := rfl
@[simp] theorem State.setFlight_dclass (s : State) (v : FlightRegs) : (s.setFlight v).dclass = s.dclass := rfl
@[simp] theorem State.setFlight_flight (s : State) (v : FlightRegs) : (s.setFlight v).flight = v := rfl
@[simp] theorem State.setFlight_buf (s : State) (v : FlightRegs) : (s.setFlight v).buf = s.buf := rfl
@[simp] theorem State.setFlight_pay (s : State) (v : FlightRegs) : (s.setFlight v).pay = s.pay := rfl
@[simp] theorem State.setFlight_pending (s : State) (v : FlightRegs) : (s.setFlight v).pending = s.pending := rfl
@[simp] theorem State.setFlight_hostRead (s : State) (v : FlightRegs) : (s.setFlight v).hostRead = s.hostRead := rfl

/-! #### `setBuf` -/

@[simp] theorem State.setBuf_params (s : State) (v : Memory) : (s.setBuf v).params = s.params := rfl
@[simp] theorem State.setBuf_operands (s : State) (v : Memory) : (s.setBuf v).operands = s.operands := rfl
@[simp] theorem State.setBuf_status (s : State) (v : Memory) : (s.setBuf v).status = s.status := rfl
@[simp] theorem State.setBuf_crc8Out (s : State) (v : Memory) : (s.setBuf v).crc8Out = s.crc8Out := rfl
@[simp] theorem State.setBuf_crc16Out (s : State) (v : Memory) : (s.setBuf v).crc16Out = s.crc16Out := rfl
@[simp] theorem State.setBuf_gram (s : State) (v : Memory) : (s.setBuf v).gram = s.gram := rfl
@[simp] theorem State.setBuf_elen (s : State) (v : Memory) : (s.setBuf v).elen = s.elen := rfl
@[simp] theorem State.setBuf_cls (s : State) (v : Memory) : (s.setBuf v).cls = s.cls := rfl
@[simp] theorem State.setBuf_dclass (s : State) (v : Memory) : (s.setBuf v).dclass = s.dclass := rfl
@[simp] theorem State.setBuf_flight (s : State) (v : Memory) : (s.setBuf v).flight = s.flight := rfl
@[simp] theorem State.setBuf_buf (s : State) (v : Memory) : (s.setBuf v).buf = v := rfl
@[simp] theorem State.setBuf_pay (s : State) (v : Memory) : (s.setBuf v).pay = s.pay := rfl
@[simp] theorem State.setBuf_pending (s : State) (v : Memory) : (s.setBuf v).pending = s.pending := rfl
@[simp] theorem State.setBuf_hostRead (s : State) (v : Memory) : (s.setBuf v).hostRead = s.hostRead := rfl

/-! #### `setPay` -/

@[simp] theorem State.setPay_params (s : State) (v : Memory) : (s.setPay v).params = s.params := rfl
@[simp] theorem State.setPay_operands (s : State) (v : Memory) : (s.setPay v).operands = s.operands := rfl
@[simp] theorem State.setPay_status (s : State) (v : Memory) : (s.setPay v).status = s.status := rfl
@[simp] theorem State.setPay_crc8Out (s : State) (v : Memory) : (s.setPay v).crc8Out = s.crc8Out := rfl
@[simp] theorem State.setPay_crc16Out (s : State) (v : Memory) : (s.setPay v).crc16Out = s.crc16Out := rfl
@[simp] theorem State.setPay_gram (s : State) (v : Memory) : (s.setPay v).gram = s.gram := rfl
@[simp] theorem State.setPay_elen (s : State) (v : Memory) : (s.setPay v).elen = s.elen := rfl
@[simp] theorem State.setPay_cls (s : State) (v : Memory) : (s.setPay v).cls = s.cls := rfl
@[simp] theorem State.setPay_dclass (s : State) (v : Memory) : (s.setPay v).dclass = s.dclass := rfl
@[simp] theorem State.setPay_flight (s : State) (v : Memory) : (s.setPay v).flight = s.flight := rfl
@[simp] theorem State.setPay_buf (s : State) (v : Memory) : (s.setPay v).buf = s.buf := rfl
@[simp] theorem State.setPay_pay (s : State) (v : Memory) : (s.setPay v).pay = v := rfl
@[simp] theorem State.setPay_pending (s : State) (v : Memory) : (s.setPay v).pending = s.pending := rfl
@[simp] theorem State.setPay_hostRead (s : State) (v : Memory) : (s.setPay v).hostRead = s.hostRead := rfl

/-! #### `setPending` -/

@[simp] theorem State.setPending_params (s : State) (v : List HostAction) : (s.setPending v).params = s.params := rfl
@[simp] theorem State.setPending_operands (s : State) (v : List HostAction) : (s.setPending v).operands = s.operands := rfl
@[simp] theorem State.setPending_status (s : State) (v : List HostAction) : (s.setPending v).status = s.status := rfl
@[simp] theorem State.setPending_crc8Out (s : State) (v : List HostAction) : (s.setPending v).crc8Out = s.crc8Out := rfl
@[simp] theorem State.setPending_crc16Out (s : State) (v : List HostAction) : (s.setPending v).crc16Out = s.crc16Out := rfl
@[simp] theorem State.setPending_gram (s : State) (v : List HostAction) : (s.setPending v).gram = s.gram := rfl
@[simp] theorem State.setPending_elen (s : State) (v : List HostAction) : (s.setPending v).elen = s.elen := rfl
@[simp] theorem State.setPending_cls (s : State) (v : List HostAction) : (s.setPending v).cls = s.cls := rfl
@[simp] theorem State.setPending_dclass (s : State) (v : List HostAction) : (s.setPending v).dclass = s.dclass := rfl
@[simp] theorem State.setPending_flight (s : State) (v : List HostAction) : (s.setPending v).flight = s.flight := rfl
@[simp] theorem State.setPending_buf (s : State) (v : List HostAction) : (s.setPending v).buf = s.buf := rfl
@[simp] theorem State.setPending_pay (s : State) (v : List HostAction) : (s.setPending v).pay = s.pay := rfl
@[simp] theorem State.setPending_pending (s : State) (v : List HostAction) : (s.setPending v).pending = v := rfl
@[simp] theorem State.setPending_hostRead (s : State) (v : List HostAction) : (s.setPending v).hostRead = s.hostRead := rfl

/-! #### `setHostRead` -/

@[simp] theorem State.setHostRead_params (s : State) (v : Option Half) : (s.setHostRead v).params = s.params := rfl
@[simp] theorem State.setHostRead_operands (s : State) (v : Option Half) : (s.setHostRead v).operands = s.operands := rfl
@[simp] theorem State.setHostRead_status (s : State) (v : Option Half) : (s.setHostRead v).status = s.status := rfl
@[simp] theorem State.setHostRead_crc8Out (s : State) (v : Option Half) : (s.setHostRead v).crc8Out = s.crc8Out := rfl
@[simp] theorem State.setHostRead_crc16Out (s : State) (v : Option Half) : (s.setHostRead v).crc16Out = s.crc16Out := rfl
@[simp] theorem State.setHostRead_gram (s : State) (v : Option Half) : (s.setHostRead v).gram = s.gram := rfl
@[simp] theorem State.setHostRead_elen (s : State) (v : Option Half) : (s.setHostRead v).elen = s.elen := rfl
@[simp] theorem State.setHostRead_cls (s : State) (v : Option Half) : (s.setHostRead v).cls = s.cls := rfl
@[simp] theorem State.setHostRead_dclass (s : State) (v : Option Half) : (s.setHostRead v).dclass = s.dclass := rfl
@[simp] theorem State.setHostRead_flight (s : State) (v : Option Half) : (s.setHostRead v).flight = s.flight := rfl
@[simp] theorem State.setHostRead_buf (s : State) (v : Option Half) : (s.setHostRead v).buf = s.buf := rfl
@[simp] theorem State.setHostRead_pay (s : State) (v : Option Half) : (s.setHostRead v).pay = s.pay := rfl
@[simp] theorem State.setHostRead_pending (s : State) (v : Option Half) : (s.setHostRead v).pending = s.pending := rfl
@[simp] theorem State.setHostRead_hostRead (s : State) (v : Option Half) : (s.setHostRead v).hostRead = v := rfl

/-! ### The registers by name, under each update -/

@[simp] theorem State.setStatus_reg (s : State) (v : Option Byte) {r : Reg} (h : r ≠ .status) :
    (s.setStatus v).reg r = s.reg r := by cases r <;> first | exact absurd rfl h | rfl
@[simp] theorem State.setCrc8Out_reg (s : State) (v : Option Byte) {r : Reg} (h : r ≠ .crc8Out) :
    (s.setCrc8Out v).reg r = s.reg r := by cases r <;> first | exact absurd rfl h | rfl
@[simp] theorem State.setCrc16Out_reg (s : State) (v : Option Half) {r : Reg} (h : r ≠ .crc16Out) :
    (s.setCrc16Out v).reg r = s.reg r := by cases r <;> first | exact absurd rfl h | rfl
@[simp] theorem State.setElen_reg (s : State) (v : Option Half) {r : Reg} (h : r ≠ .elen) :
    (s.setElen v).reg r = s.reg r := by cases r <;> first | exact absurd rfl h | rfl
@[simp] theorem State.setCls_reg (s : State) (v : Option (BitVec 1)) {r : Reg} (h : r ≠ .cls) :
    (s.setCls v).reg r = s.reg r := by cases r <;> first | exact absurd rfl h | rfl
@[simp] theorem State.setDclass_reg (s : State) (v : Option (BitVec 2)) {r : Reg} (h : r ≠ .dclass) :
    (s.setDclass v).reg r = s.reg r := by cases r <;> first | exact absurd rfl h | rfl
theorem State.setGram_reg (s : State) (v : GramRegs) {r : Reg}
    (h : r ∉ [Reg.gHeader, .gSizef, .gSize, .gCrc8, .gDisc, .gDir, .gType, .gSubtype, .gId, .gSeq, .gPoff, .gPlen,
      .gCrc16]) : (s.setGram v).reg r = s.reg r := by cases r <;> first | rfl | exact absurd (by decide) h
theorem State.setFlight_reg (s : State) (v : FlightRegs) {r : Reg} (h : r ∉ [Reg.fHeight, .fBatt, .fCam]) :
    (s.setFlight v).reg r = s.reg r := by cases r <;> first | rfl | exact absurd (by decide) h
@[simp] theorem State.setBuf_reg (s : State) (v : Memory) (r : Reg) : (s.setBuf v).reg r = s.reg r := by cases r <;> rfl
@[simp] theorem State.setPay_reg (s : State) (v : Memory) (r : Reg) : (s.setPay v).reg r = s.reg r := by cases r <;> rfl
@[simp] theorem State.setPending_reg (s : State) (v : List HostAction) (r : Reg) :
    (s.setPending v).reg r = s.reg r := by cases r <;> rfl
@[simp] theorem State.setHostRead_reg (s : State) (v : Option Half) (r : Reg) : (s.setHostRead v).reg r = s.reg r := by
  cases r <;> rfl

end Sys2Proof.Machine
end

