-- ==== Sys2Proof/Laws/Memory.lean ====
section
/-! SUPPORT. The byte memories: a read after a write, the canonical form kept by every operation, and what reading and
writing a byte sequence does. -/

namespace Sys2Proof.Machine

@[simp] theorem Memory.read_nil (a : Nat) : Memory.read [] a = none := rfl

theorem Memory.read_write_same (m : Memory) (a : Nat) (v : Byte) : Memory.read (Memory.write m a v) a = some v := by
  induction m with
  | nil => simp [Memory.write, Memory.read]
  | cons c t ih =>
    simp only [Memory.write]
    split
    · simp [Memory.read]
    · split
      · simp [Memory.read]
      · simp only [Memory.read]
        rw [if_neg (by omega)]
        exact ih

theorem Memory.read_write_other (m : Memory) {a i : Nat} (v : Byte) (h : i ≠ a) :
    Memory.read (Memory.write m a v) i = Memory.read m i := by
  induction m with
  | nil => simp [Memory.write, Memory.read, Memory.unlisted, Ne.symm h]
  | cons c t ih =>
    simp only [Memory.write]
    split
    · simp [Memory.read, Ne.symm h]
    · split
      · rename_i _ he
        subst he
        simp [Memory.read, Ne.symm h]
      · simp only [Memory.read, ih]

/-- A canonical memory is a strictly rising list of indices. -/
theorem Memory.wf_cons_iff (c : Host.Cell) (t : Memory) :
    Memory.wf (c :: t) = true ↔ (∀ d ∈ t.head?, c.1 < d.1) ∧ Memory.wf t = true := by
  cases t with
  | nil => simp [Memory.wf]
  | cons d t => simp [Memory.wf]

theorem Memory.head_write (m : Memory) (a : Nat) (v : Byte) :
    ∀ d ∈ (Memory.write m a v).head?, d.1 = a ∨ ∃ e ∈ m.head?, d.1 = e.1 := by
  cases m with
  | nil => simp [Memory.write]
  | cons c t =>
    simp only [Memory.write]
    split
    · simp
    · split <;> simp

theorem Memory.write_wf {m : Memory} (h : Memory.wf m = true) (a : Nat) (v : Byte) :
    Memory.wf (Memory.write m a v) = true := by
  induction m with
  | nil => rfl
  | cons c t ih =>
    obtain ⟨hc, ht⟩ := (Memory.wf_cons_iff c t).mp h
    simp only [Memory.write]
    split
    · rename_i hlt
      exact (Memory.wf_cons_iff _ _).mpr ⟨by simpa using hlt, h⟩
    · split
      · rename_i _ he
        exact (Memory.wf_cons_iff _ _).mpr ⟨by simpa [he] using hc, ht⟩
      · refine (Memory.wf_cons_iff _ _).mpr ⟨fun d hd => ?_, ih ht⟩
        rcases Memory.head_write t a v d hd with he | ⟨e, he, hde⟩
        · simp only [he]; omega
        · rw [hde]; exact hc e he

theorem Memory.mem_write {m : Memory} {a : Nat} {v : Byte} {c : Host.Cell} (h : c ∈ Memory.write m a v) :
    c = (a, v) ∨ c ∈ m := by
  induction m with
  | nil => simpa [Memory.write] using h
  | cons d t ih =>
    simp only [Memory.write] at h
    split at h
    · simpa using h
    · split at h
      · rcases List.mem_cons.mp h with h | h
        · exact .inl h
        · exact .inr (List.mem_cons_of_mem _ h)
      · rcases List.mem_cons.mp h with h | h
        · exact .inr (h ▸ List.mem_cons_self)
        · exact (ih h).imp_right (List.mem_cons_of_mem _)

theorem Memory.writeBytes_wf {m : Memory} (h : Memory.wf m = true) (a : Nat) (bs : List Byte) :
    Memory.wf (Memory.writeBytes m a bs) = true := by
  induction bs generalizing m a with
  | nil => exact h
  | cons b bs ih => exact ih (Memory.write_wf h a b) _

theorem Memory.mem_writeBytes {m : Memory} {a : Nat} {bs : List Byte} {c : Host.Cell}
    (h : c ∈ Memory.writeBytes m a bs) : c ∈ m ∨ c.1 < a + bs.length := by
  induction bs generalizing m a with
  | nil => exact .inl h
  | cons b bs ih =>
    rcases ih h with h | h
    · rcases Memory.mem_write h with h | h
      · exact .inr (by simp [h])
      · exact .inl h
    · exact .inr (by simp only [List.length_cons]; omega)

theorem Memory.read_writeBytes_outside (m : Memory) {a i : Nat} {bs : List Byte} (h : i < a ∨ a + bs.length ≤ i) :
    Memory.read (Memory.writeBytes m a bs) i = Memory.read m i := by
  induction bs generalizing m a with
  | nil => rfl
  | cons b bs ih =>
    simp only [List.length_cons] at h
    simp only [Memory.writeBytes]
    rw [ih _ (by omega), Memory.read_write_other _ _ (by omega)]

theorem Memory.writeBytes_holds (m : Memory) (a : Nat) (bs : List Byte) : Holds (Memory.writeBytes m a bs) a bs := by
  induction bs generalizing m a with
  | nil => intro k hk; exact absurd hk (Nat.not_lt_zero k)
  | cons b bs ih =>
    intro k hk
    cases k with
    | zero =>
      simp only [Memory.writeBytes]
      rw [Memory.read_writeBytes_outside _ (by omega)]
      exact Memory.read_write_same _ _ _
    | succ k =>
      have := ih (Memory.write m a b) (a + 1) k (by simpa using hk)
      simpa [Memory.writeBytes, byteAt, Nat.add_assoc, Nat.add_comm 1 k] using this

/-- What storing a byte sequence does to every byte of a memory. -/
theorem Memory.writeBytes_storedAt (m : Memory) (a : Nat) (bs : List Byte) :
    StoredAt m (Memory.writeBytes m a bs) a bs :=
  ⟨Memory.writeBytes_holds m a bs, fun _ h => Memory.read_writeBytes_outside m h⟩

theorem Holds.head {m : Memory} {a : Nat} {b : Byte} {bs : List Byte} (h : Holds m a (b :: bs)) :
    Memory.read m a = some b := by
  simpa [byteAt] using h 0 (by simp)

theorem Holds.tail {m : Memory} {a : Nat} {b : Byte} {bs : List Byte} (h : Holds m a (b :: bs)) :
    Holds m (a + 1) bs := by
  intro k hk
  have := h (k + 1) (by simpa using hk)
  simpa [byteAt, Nat.add_assoc, Nat.add_comm 1 k] using this

theorem Holds.cons {m : Memory} {a : Nat} {b : Byte} {bs : List Byte} (hb : Memory.read m a = some b)
    (h : Holds m (a + 1) bs) : Holds m a (b :: bs) := by
  intro k hk
  cases k with
  | zero => simpa [byteAt] using hb
  | succ k =>
    have := h k (by simpa using hk)
    simpa [byteAt, Nat.add_assoc, Nat.add_comm 1 k] using this

/-- Reading a byte sequence succeeds exactly with the bytes that are there. -/
theorem Memory.readBytes_ok_iff (m : Memory) (a n : Nat) (bs : List Byte) :
    Memory.readBytes m a n = .ok bs ↔ bs.length = n ∧ Holds m a bs := by
  induction n generalizing a bs with
  | zero =>
    constructor
    · intro h
      cases h
      exact ⟨rfl, fun k hk => absurd hk (Nat.not_lt_zero k)⟩
    · rintro ⟨h, -⟩
      rw [List.length_eq_zero_iff.mp h]
      rfl
  | succ n ih =>
    simp only [Memory.readBytes]
    cases bs with
    | nil =>
      constructor
      · intro h
        split at h
        · cases h
        · split at h <;> cases h
      · rintro ⟨h, -⟩
        cases h
    | cons b bs =>
      constructor
      · intro h
        split at h
        · cases h
        · rename_i v hv
          split at h
          · cases h
          · rename_i vs hvs
            cases h
            obtain ⟨hl, hh⟩ := (ih _ _).mp hvs
            exact ⟨by simp [hl], Holds.cons hv hh⟩
      · rintro ⟨hl, hh⟩
        have := (ih (a + 1) bs).mpr ⟨by simpa using hl, hh.tail⟩
        simp [hh.head, this]

/-- The index a failed read of a byte sequence reports lies in the range and holds no value. -/
theorem Memory.readBytes_error {m : Memory} {a n i : Nat} (h : Memory.readBytes m a n = .error i) :
    a ≤ i ∧ i < a + n ∧ Memory.read m i = none := by
  induction n generalizing a with
  | zero => cases h
  | succ n ih =>
    simp only [Memory.readBytes] at h
    split at h
    · cases h
      exact ⟨by omega, by omega, ‹_›⟩
    · split at h
      · rename_i hv
        cases h
        obtain ⟨h1, h2, h3⟩ := ih hv
        exact ⟨by omega, by omega, h3⟩
      · cases h

/-- A byte sequence one byte of which holds no value cannot be read. -/
theorem Memory.readBytes_missing {m : Memory} {a n j : Nat} (ha : a ≤ j) (hj : j < a + n)
    (h : Memory.read m j = none) :
    ∃ i, Memory.readBytes m a n = .error i ∧ a ≤ i ∧ i < a + n ∧ Memory.read m i = none := by
  cases hr : Memory.readBytes m a n with
  | error i => exact ⟨i, rfl, Memory.readBytes_error hr⟩
  | ok bs =>
    obtain ⟨hl, hh⟩ := (Memory.readBytes_ok_iff m a n bs).mp hr
    have hv := hh (j - a) (by omega)
    rw [show a + (j - a) = j by omega, h] at hv
    cases hv

/-- Bytes that all hold values can be read. -/
theorem Memory.readBytes_of_valued (m : Memory) (a n : Nat) (h : ∀ k < n, (Memory.read m (a + k)).isSome) :
    ∃ bs, Memory.readBytes m a n = .ok bs := by
  induction n generalizing a with
  | zero => exact ⟨[], rfl⟩
  | succ n ih =>
    obtain ⟨v, hv⟩ := Option.isSome_iff_exists.mp (by simpa using h 0 (by omega))
    obtain ⟨vs, hvs⟩ := ih (a + 1) fun k hk => by
      simpa [Nat.add_assoc, Nat.add_comm 1 k] using h (k + 1) (by omega)
    exact ⟨v :: vs, by simp [Memory.readBytes, hv, hvs]⟩

/-- The reset memories are canonical. -/
theorem reset_memories_wf (p : Params) (m : MemName) : Memory.wf ((State.resetWith p).mem m) = true := by
  cases m <;> rfl

end Sys2Proof.Machine
end

