-- ==== Sys2Proof/Laws/Ops.lean ====
section
/-! SUPPORT. One lemma per shared operation that says everything it can do; the proofs cite these and do not unfold the
operations. -/

namespace Sys2Proof.Machine

@[simp] theorem withReg_some {w : Nat} {α : Type} (r : Reg) (x : BitVec w)
    (k : BitVec w → Host.Outcome α Fault Refusal) : withReg r (some x) k = k x := rfl

@[simp] theorem withReg_none {w : Nat} {α : Type} (r : Reg) (k : BitVec w → Host.Outcome α Fault Refusal) :
    withReg r (none : Option (BitVec w)) k = .refused (.noRegisterValue r) := rfl

/-- If a register read goes on to a next state, the register holds a value. -/
theorem withReg_next {w : Nat} {α : Type} {r : Reg} {v : Option (BitVec w)}
    {k : BitVec w → Host.Outcome α Fault Refusal} {t : α} (h : withReg r v k = .next t) : ∃ x, v = some x ∧ k x = .next t := by
  cases v with
  | none => cases h
  | some x => exact ⟨x, rfl, h⟩

/-- A range inside the memory whose bytes are `bs` is read as `bs`. -/
theorem withBytes_holds {m : MemName} {a n : Nat} {s : State} {bs : List Byte} (k : List Byte → Out)
    (hin : a + n ≤ capacity s.params m) (hl : bs.length = n) (hh : Holds (s.mem m) a bs) :
    withBytes m a n s k = k bs := by
  have h := (Memory.readBytes_ok_iff (s.mem m) a n bs).mpr ⟨hl, hh⟩
  simp [withBytes, Nat.not_lt.mpr hin, h]

/-- If a range read goes on to a next state, the range lies inside the memory and its bytes hold values. -/
theorem withBytes_next {m : MemName} {a n : Nat} {s t : State} {k : List Byte → Out}
    (h : withBytes m a n s k = .next t) :
    ∃ bs, a + n ≤ capacity s.params m ∧ bs.length = n ∧ Holds (s.mem m) a bs ∧ k bs = .next t := by
  unfold withBytes at h
  split at h
  · cases h
  · rename_i hin
    split at h
    · rename_i bs hbs
      obtain ⟨hl, hh⟩ := (Memory.readBytes_ok_iff _ _ _ _).mp hbs
      exact ⟨bs, Nat.le_of_not_lt hin, hl, hh, h⟩
    · cases h

/-- A byte inside the memory that holds a value is read. -/
theorem withByte_some {m : MemName} {i : Nat} {s : State} {v : Byte} (k : Byte → Out)
    (hin : i < capacity s.params m) (hv : Memory.read (s.mem m) i = some v) : withByte m i s k = k v :=
  withBytes_holds (bs := [v]) _ hin rfl (Holds.cons hv fun j hj => absurd hj (Nat.not_lt_zero j))

/-- If a byte read goes on to a next state, the byte exists and holds a value. -/
theorem withByte_next {m : MemName} {i : Nat} {s t : State} {k : Byte → Out} (h : withByte m i s k = .next t) :
    ∃ v, i < capacity s.params m ∧ Memory.read (s.mem m) i = some v ∧ k v = .next t := by
  obtain ⟨bs, hin, hl, hh, hk⟩ := withBytes_next h
  match bs, hl with
  | [v], _ => exact ⟨v, hin, hh.head, hk⟩

/-- A range inside the memory one byte of which holds no value is refused, and the refusal names such a byte. -/
theorem withBytes_missing {m : MemName} {a n j : Nat} {s : State} (k : List Byte → Out)
    (hin : a + n ≤ capacity s.params m) (ha : a ≤ j) (hj : j < a + n) (h : Memory.read (s.mem m) j = none) :
    ∃ i, withBytes m a n s k = .refused (.noByteValue m i) ∧ a ≤ i ∧ i < a + n ∧ Memory.read (s.mem m) i = none := by
  obtain ⟨i, hi, hr⟩ := Memory.readBytes_missing ha hj h
  exact ⟨i, by simp [withBytes, Nat.not_lt.mpr hin, hi], hr⟩

/-- A byte inside the memory that holds no value is refused. -/
theorem withByte_missing {m : MemName} {i : Nat} {s : State} (k : Byte → Out) (hin : i < capacity s.params m)
    (h : Memory.read (s.mem m) i = none) : withByte m i s k = .refused (.noByteValue m i) := by
  obtain ⟨j, hj, h1, h2, -⟩ := withBytes_missing (n := 1) (fun bs => k (byteAt bs 0)) (Nat.succ_le_of_lt hin)
    le_rfl (Nat.lt_succ_self i) h
  rw [show j = i by omega] at hj
  exact hj

/-- A range of BUF whose bytes are `bs` is read as `bs`. -/
theorem withBufBytes_holds {a n : Nat} {s : State} {bs : List Byte} (k : List Byte → Out)
    (hin : a + n ≤ s.params.bufCap) (hl : bs.length = n) (hh : Holds s.buf a bs) : withBytes .buf a n s k = k bs :=
  withBytes_holds (m := .buf) k hin hl hh

/-- A range of PAY whose bytes are `bs` is read as `bs`. -/
theorem withPayBytes_holds {a n : Nat} {s : State} {bs : List Byte} (k : List Byte → Out)
    (hin : a + n ≤ s.params.maxPayload) (hl : bs.length = n) (hh : Holds s.pay a bs) : withBytes .pay a n s k = k bs :=
  withBytes_holds (m := .pay) k hin hl hh

/-- A byte of BUF that holds a value is read. -/
theorem withBufByte_some {i : Nat} {s : State} {v : Byte} (k : Byte → Out) (hin : i < s.params.bufCap)
    (hv : Memory.read s.buf i = some v) : withByte .buf i s k = k v :=
  withByte_some (m := .buf) k hin hv

/-- START and COUNT with a sum beyond the capacity: BadOperand. -/
theorem withRange_beyond {g : OwnResults} {s : State} {a n : Half} (k : Nat → Nat → Out)
    (ha : s.operands.start = some a) (hn : s.operands.count = some n) (h : s.params.bufCap < a.toNat + n.toNat) :
    withRange g s k = endWith g .badOperand s := by
  simp only [withRange, ha, hn, withReg_some, h, if_true]

/-- START and COUNT of a range inside BUF: the operation goes on. -/
theorem withRange_inside {g : OwnResults} {s : State} {a n : Half} (k : Nat → Nat → Out)
    (ha : s.operands.start = some a) (hn : s.operands.count = some n) (h : a.toNat + n.toNat ≤ s.params.bufCap) :
    withRange g s k = k a.toNat n.toNat := by
  simp only [withRange, ha, hn, withReg_some, Nat.not_lt.mpr h, if_false]

/-- RLEN beyond the capacity: BadOperand. -/
theorem withReceived_beyond {g : OwnResults} {s : State} {n : Half} (k : Nat → Out)
    (hn : s.operands.rlen = some n) (h : s.params.bufCap < n.toNat) :
    withReceived g s k = endWith g .badOperand s := by
  simp only [withReceived, hn, withReg_some, h, if_true]

/-- RLEN inside the capacity: the operation goes on. -/
theorem withReceived_inside {g : OwnResults} {s : State} {n : Half} (k : Nat → Out)
    (hn : s.operands.rlen = some n) (h : n.toNat ≤ s.params.bufCap) : withReceived g s k = k n.toNat := by
  simp only [withReceived, hn, withReg_some, Nat.not_lt.mpr h, if_false]

/-- If a range operation goes on to a next state, START and COUNT hold values, and either the range leaves BUF and the
status is BadOperand, or the operation goes on. -/
theorem withRange_next {g : OwnResults} {s t : State} {k : Nat → Nat → Out} (h : withRange g s k = .next t) :
    ∃ a c, s.operands.start = some a ∧ s.operands.count = some c ∧
      ((s.params.bufCap < a.toNat + c.toNat ∧ endWith g .badOperand s = .next t) ∨
       (a.toNat + c.toNat ≤ s.params.bufCap ∧ k a.toNat c.toNat = .next t)) := by
  obtain ⟨a, ha, h⟩ := withReg_next h
  obtain ⟨c, hc, h⟩ := withReg_next h
  refine ⟨a, c, ha, hc, ?_⟩
  split at h
  · exact .inl ⟨‹_›, h⟩
  · exact .inr ⟨Nat.le_of_not_lt ‹_›, h⟩

/-- If an operation on received bytes goes on to a next state, RLEN holds a value, and either it is beyond the capacity and
the status is BadOperand, or the operation goes on. -/
theorem withReceived_next {g : OwnResults} {s t : State} {k : Nat → Out} (h : withReceived g s k = .next t) :
    ∃ n, s.operands.rlen = some n ∧
      ((s.params.bufCap < n.toNat ∧ endWith g .badOperand s = .next t) ∨
       (n.toNat ≤ s.params.bufCap ∧ k n.toNat = .next t)) := by
  obtain ⟨n, hn, h⟩ := withReg_next h
  refine ⟨n, hn, ?_⟩
  split at h
  · exact .inl ⟨‹_›, h⟩
  · exact .inr ⟨Nat.le_of_not_lt ‹_›, h⟩

/-- A store inside the memory goes on with the bytes stored. -/
theorem putBytes_inside {m : MemName} {a : Nat} {bs : List Byte} {s : State} (k : State → Out)
    (hin : a + bs.length ≤ capacity s.params m) :
    putBytes m a bs s k = k (s.setMem m (Memory.writeBytes (s.mem m) a bs)) := by
  simp [putBytes, Nat.not_lt.mpr hin]

/-- If a store goes on to a next state, it lies inside the memory. -/
theorem putBytes_next {m : MemName} {a : Nat} {bs : List Byte} {s t : State} {k : State → Out}
    (h : putBytes m a bs s k = .next t) :
    a + bs.length ≤ capacity s.params m ∧ k (s.setMem m (Memory.writeBytes (s.mem m) a bs)) = .next t := by
  unfold putBytes at h
  split at h
  · cases h
  · exact ⟨Nat.le_of_not_lt ‹_›, h⟩

theorem endWith_next {g : OwnResults} {x : Status} {s t : State} (h : endWith g x s = .next t) :
    t = (clearResults g s).setStatus (some x.code) := by
  cases h
  rfl

theorem endOk_next {s t : State} (h : endOk s = .next t) : t = s.setStatus (some Status.ok.code) := by
  cases h
  rfl

theorem endIllegal_eq (s : State) : endIllegal s = .next (s.setStatus (some Status.illegalOp.code)) := rfl

/-- With HAS_AUX an auxiliary operation runs; without it the issue is illegal. -/
theorem needsAux_true {s : State} (k : Out) (h : s.params.hasAux = true) : needsAux s k = k := by simp [needsAux, h]

theorem needsAux_false {s : State} (k : Out) (h : s.params.hasAux = false) : needsAux s k = endIllegal s := by
  simp [needsAux, h]

theorem needsAux_next {s t : State} {k : Out} (h : needsAux s k = .next t) :
    (s.params.hasAux = true ∧ k = .next t) ∨
      (s.params.hasAux = false ∧ t = s.setStatus (some Status.illegalOp.code)) := by
  unfold needsAux at h
  split at h
  · exact .inl ⟨‹_›, h⟩
  · rename_i hn
    exact .inr ⟨by simpa using hn, endWith_next h⟩

/-! ### The memory of a name -/

@[simp] theorem mem_buf (s : State) : s.mem .buf = s.buf := rfl
@[simp] theorem mem_pay (s : State) : s.mem .pay = s.pay := rfl
@[simp] theorem capacity_buf (p : Params) : capacity p .buf = p.bufCap := rfl
@[simp] theorem capacity_pay (p : Params) : capacity p .pay = p.maxPayload := rfl
@[simp] theorem setMem_buf (s : State) (v : Memory) : s.setMem .buf v = s.setBuf v := rfl
@[simp] theorem setMem_pay (s : State) (v : Memory) : s.setMem .pay v = s.setPay v := rfl

/-! ### Clearing an operation's own results -/

@[simp] theorem clearResults_crc8 (s : State) : clearResults .crc8 s = s.setCrc8Out none := rfl
@[simp] theorem clearResults_crc16 (s : State) : clearResults .crc16 s = s.setCrc16Out none := rfl
@[simp] theorem clearResults_gram (s : State) : clearResults .gram s = s.setGram .none := rfl
@[simp] theorem clearResults_elen (s : State) : clearResults .elen s = s.setElen none := rfl
@[simp] theorem clearResults_cls (s : State) : clearResults .cls s = s.setCls none := rfl
@[simp] theorem clearResults_flight (s : State) : clearResults .flight s = s.setFlight .none := rfl
@[simp] theorem clearResults_nothing (s : State) : clearResults .nothing s = s := rfl

@[simp] theorem clearResults_params (g : OwnResults) (s : State) : (clearResults g s).params = s.params := by
  cases g <;> rfl
@[simp] theorem clearResults_operands (g : OwnResults) (s : State) : (clearResults g s).operands = s.operands := by
  cases g <;> rfl
@[simp] theorem clearResults_buf (g : OwnResults) (s : State) : (clearResults g s).buf = s.buf := by cases g <;> rfl
@[simp] theorem clearResults_pay (g : OwnResults) (s : State) : (clearResults g s).pay = s.pay := by cases g <;> rfl
@[simp] theorem clearResults_pending (g : OwnResults) (s : State) : (clearResults g s).pending = s.pending := by
  cases g <;> rfl
@[simp] theorem clearResults_hostRead (g : OwnResults) (s : State) : (clearResults g s).hostRead = s.hostRead := by
  cases g <;> rfl
@[simp] theorem clearResults_dclass (g : OwnResults) (s : State) : (clearResults g s).dclass = s.dclass := by
  cases g <;> rfl

/-! ### Codes and lengths -/

theorem status_code_le (x : Status) : x.code.toNat ≤ 6 := by cases x <;> decide

theorem directionCode_ne_three (d : Direction) : directionCode d ≠ 3#2 := by cases d <;> decide

theorem classCode_le (c : MessageClass) : (classCode c).toNat ≤ 2 := by cases c <;> decide

@[simp] theorem halfBytes_length (v : Half) : (halfBytes v).length = 2 := rfl

@[simp] theorem shortHeader_length (n : Nat) : (shortHeader n).length = 3 := rfl

@[simp] theorem handshakeRequest_length (port : Half) : (handshakeRequest port).length = 11 := rfl

theorem encodeBody_length (c8 : List Byte → Byte) (kind : Byte) (id seq : Half) (p : List Byte) :
    (encodeBody c8 kind id seq p).length = 9 + p.length := by
  simp only [encodeBody, List.length_append, shortHeader_length, halfBytes_length, List.length_cons, List.length_nil]

theorem encodeGram_length (c8 : List Byte → Byte) (c16 : List Byte → Half) (kind : Byte) (id seq : Half) (p : List Byte) :
    (encodeGram c8 c16 kind id seq p).length = fixedBytes + p.length := by
  simp only [encodeGram, List.length_append, halfBytes_length, encodeBody_length, fixedBytes]
  omega

/-- The two bytes of a 16-bit value give it back. -/
@[simp] theorem le16_low_high (v : Half) : le16 (lowByte v) (highByte v) = v := by
  simp only [le16, lowByte, highByte]
  exact BitVec.eq_of_getLsbD_eq fun i hi => by
    simp only [BitVec.getLsbD_append, BitVec.getLsbD_extractLsb']
    by_cases h : i < 8
    · simp [h]
    · simp only [h, if_false]
      have : i - 8 < 8 := by omega
      simp [this, show 8 + (i - 8) = i by omega]

@[simp] theorem lowByte_le16 (lo hi : Byte) : lowByte (le16 lo hi) = lo := by
  simp only [le16, lowByte]
  exact BitVec.eq_of_getLsbD_eq fun i hi => by
    simp only [BitVec.getLsbD_extractLsb', BitVec.getLsbD_append]
    simp [hi]

@[simp] theorem highByte_le16 (lo hi : Byte) : highByte (le16 lo hi) = hi := by
  simp only [le16, highByte]
  exact BitVec.eq_of_getLsbD_eq fun i hi => by
    simp only [BitVec.getLsbD_extractLsb', BitVec.getLsbD_append]
    simp [hi]

/-- `le16` is the source's `lo | (hi << 8)` (R8). -/
theorem le16_eq_or (lo hi : Byte) : le16 lo hi = lo.setWidth 16 ||| (hi.setWidth 16 <<< 8) := by
  simp only [le16]
  exact BitVec.eq_of_getLsbD_eq fun i hi => by
    simp only [BitVec.getLsbD_append, BitVec.getLsbD_or, BitVec.getLsbD_setWidth, BitVec.getLsbD_shiftLeft]
    by_cases h : i < 8
    · simp [h, hi]
    · simp [h, hi, show i - 8 < 16 by omega, BitVec.getLsbD_of_ge lo i (by omega)]

end Sys2Proof.Machine
end

