-- ==== Sys2Proof/Laws/Exec.lean ====
section
/-! SUPPORT. One inversion lemma per operation: if it answers a next state, what the state before held and what the next
state is. Every invariant and frame is derived from these. -/

namespace Sys2Proof.Machine

/-- What CRC8 can do. -/
theorem execCrc8_next {s t : State} (h : execCrc8 s = .next t) :
    ∃ a n, s.operands.start = some a ∧ s.operands.count = some n ∧
      ((s.params.bufCap < a.toNat + n.toNat ∧ t = (s.setCrc8Out none).setStatus (some Status.badOperand.code)) ∨
       ∃ bs, a.toNat + n.toNat ≤ s.params.bufCap ∧ bs.length = n.toNat ∧ Holds s.buf a.toNat bs ∧
         t = (s.setCrc8Out (some (s.params.crc8 bs))).setStatus (some Status.ok.code)) := by
  obtain ⟨a, n, ha, hn, ⟨hb, h⟩ | ⟨hi, h⟩⟩ := withRange_next h
  · exact ⟨a, n, ha, hn, .inl ⟨hb, endWith_next h⟩⟩
  · obtain ⟨bs, -, hl, hh, h⟩ := withBytes_next h
    exact ⟨a, n, ha, hn, .inr ⟨bs, hi, hl, hh, endOk_next h⟩⟩

/-- What CRC16 can do. -/
theorem execCrc16_next {s t : State} (h : execCrc16 s = .next t) :
    ∃ a n, s.operands.start = some a ∧ s.operands.count = some n ∧
      ((s.params.bufCap < a.toNat + n.toNat ∧ t = (s.setCrc16Out none).setStatus (some Status.badOperand.code)) ∨
       ∃ bs, a.toNat + n.toNat ≤ s.params.bufCap ∧ bs.length = n.toNat ∧ Holds s.buf a.toNat bs ∧
         t = (s.setCrc16Out (some (s.params.crc16 bs))).setStatus (some Status.ok.code)) := by
  obtain ⟨a, n, ha, hn, ⟨hb, h⟩ | ⟨hi, h⟩⟩ := withRange_next h
  · exact ⟨a, n, ha, hn, .inl ⟨hb, endWith_next h⟩⟩
  · obtain ⟨bs, -, hl, hh, h⟩ := withBytes_next h
    exact ⟨a, n, ha, hn, .inr ⟨bs, hi, hl, hh, endOk_next h⟩⟩

/-- What the second half of DECODE can do. -/
theorem decodeChecked_next {len : Nat} {s t : State} (h : decodeChecked len s = .next t) :
    t = (s.setGram .none).setStatus (some Status.checksumInvalid.code) ∨
      ∃ body lo hi, body.length = len - 2 ∧ Holds s.buf 0 body ∧ Memory.read s.buf (len - 2) = some lo ∧
        Memory.read s.buf (len - 1) = some hi ∧ s.params.crc16 body = le16 lo hi ∧
        t = (s.setGram (gramRegs (unpackGram (body ++ [lo, hi])))).setStatus (some Status.ok.code) := by
  obtain ⟨short, -, -, -, h⟩ := withBytes_next h
  obtain ⟨c8, -, -, h⟩ := withByte_next h
  split at h
  · exact .inl (endWith_next h)
  · obtain ⟨body, -, hl, hh, h⟩ := withBytes_next h
    obtain ⟨lo, -, hlo, h⟩ := withByte_next h
    obtain ⟨hi, -, hhi, h⟩ := withByte_next h
    split at h
    · exact .inl (endWith_next h)
    · exact .inr ⟨body, lo, hi, hl, hh, hlo, hhi, not_not.mp ‹_›, endOk_next h⟩

/-- What DECODE can do. -/
theorem execDecode_next {s t : State} (h : execDecode s = .next t) :
    (∃ x : Status, x ≠ .ok ∧ x ≠ .illegalOp ∧ x ≠ .lengthMismatch ∧ t = (s.setGram .none).setStatus (some x.code)) ∨
      ∃ n b1 b2 body lo hi, s.operands.rlen = some n ∧ n.toNat ≤ s.params.bufCap ∧
        Memory.read s.buf 1 = some b1 ∧ Memory.read s.buf 2 = some b2 ∧
        (lengthOf (le16 b1 b2)).toNat ≤ n.toNat ∧ fixedBytes ≤ (lengthOf (le16 b1 b2)).toNat ∧
        body.length = (lengthOf (le16 b1 b2)).toNat - 2 ∧ Holds s.buf 0 body ∧
        t = (s.setGram (gramRegs (unpackGram (body ++ [lo, hi])))).setStatus (some Status.ok.code) := by
  obtain ⟨n, hn, ⟨hb, h⟩ | ⟨hi, h⟩⟩ := withReceived_next h
  · exact .inl ⟨.badOperand, by decide, by decide, by decide, endWith_next h⟩
  · split at h
    · exact .inl ⟨.tooShort, by decide, by decide, by decide, endWith_next h⟩
    · obtain ⟨b1, -, h1, h⟩ := withByte_next h
      obtain ⟨b2, -, h2, h⟩ := withByte_next h
      simp only [decodeSized] at h
      split at h
      · exact .inl ⟨.sizeMismatch, by decide, by decide, by decide, endWith_next h⟩
      · rename_i hlen
        obtain h | ⟨body, lo, hi', hl, hh, -, -, -, ht⟩ := decodeChecked_next h
        · exact .inl ⟨.checksumInvalid, by decide, by decide, by decide, h⟩
        · exact .inr ⟨n, b1, b2, body, lo, hi', hn, hi, h1, h2, by omega, by omega, hl, hh, ht⟩

/-- What ENCODE can do. -/
theorem execEncode_next {s t : State} (h : execEncode s = .next t) :
    ∃ kind mid seq plen, s.operands.kind = some kind ∧ s.operands.mid = some mid ∧ s.operands.seq = some seq ∧
      s.operands.plen = some plen ∧
      ((s.params.maxPayload < plen.toNat ∧ t = (s.setElen none).setStatus (some Status.badOperand.code)) ∨
       ∃ p, plen.toNat ≤ s.params.maxPayload ∧ p.length = plen.toNat ∧ Holds s.pay 0 p ∧
         fixedBytes + p.length ≤ s.params.bufCap ∧
         t = ((s.setBuf (Memory.writeBytes s.buf 0 (encodeGram s.params.crc8 s.params.crc16 kind mid seq p))).setElen
           (some (BitVec.ofNat 16 (fixedBytes + plen.toNat)))).setStatus (some Status.ok.code)) := by
  obtain ⟨kind, hk, h⟩ := withReg_next h
  obtain ⟨mid, hm, h⟩ := withReg_next h
  obtain ⟨seq, hs, h⟩ := withReg_next h
  obtain ⟨plen, hp, h⟩ := withReg_next h
  refine ⟨kind, mid, seq, plen, hk, hm, hs, hp, ?_⟩
  split at h
  · exact .inl ⟨‹_›, endWith_next h⟩
  · obtain ⟨p, -, hl, hh, h⟩ := withBytes_next h
    obtain ⟨hin, h⟩ := putBytes_next h
    rw [encodeGram_length] at hin
    exact .inr ⟨p, by omega, hl, hh, by simpa using hin, endOk_next h⟩

/-- What CLASSIFY can do. -/
theorem execClassify_next {s t : State} (h : execClassify s = .next t) :
    (s.params.hasAux = false ∧ t = s.setStatus (some Status.illegalOp.code)) ∨
      (s.params.hasAux = true ∧
        ((∃ v, t = (s.setCls (some v)).setStatus (some Status.ok.code)) ∨
          t = (s.setCls none).setStatus (some Status.badOperand.code))) := by
  obtain ⟨ha, h⟩ | h := needsAux_next h
  · refine .inr ⟨ha, ?_⟩
    obtain ⟨n, -, ⟨-, h⟩ | ⟨-, h⟩⟩ := withReceived_next h
    · exact .inr (endWith_next h)
    · split at h
      · exact .inl ⟨_, endOk_next h⟩
      · obtain ⟨bs, -, -, -, h⟩ := withBytes_next h
        exact .inl ⟨_, endOk_next h⟩
  · exact .inl h

/-- What HSREQ can do. -/
theorem execHsreq_next {s t : State} (h : execHsreq s = .next t) :
    (s.params.hasAux = false ∧ t = s.setStatus (some Status.illegalOp.code)) ∨
      (s.params.hasAux = true ∧ ∃ port, s.operands.port = some port ∧ 11 ≤ s.params.bufCap ∧
        t = ((s.setBuf (Memory.writeBytes s.buf 0 (handshakeRequest port))).setElen (some 11)).setStatus
          (some Status.ok.code)) := by
  obtain ⟨ha, h⟩ | h := needsAux_next h
  · obtain ⟨port, hp, h⟩ := withReg_next h
    obtain ⟨hin, h⟩ := putBytes_next h
    exact .inr ⟨ha, port, hp, by simpa using hin, endOk_next h⟩
  · exact .inl h

/-- What DISPATCH can do. -/
theorem execDispatch_next {s t : State} (h : execDispatch s = .next t) :
    (s.params.hasAux = false ∧ t = s.setStatus (some Status.illegalOp.code)) ∨
      (s.params.hasAux = true ∧ ∃ mid, s.operands.mid = some mid ∧
        t = (s.setDclass (some (classCode (classOfId mid)))).setStatus (some Status.ok.code)) := by
  obtain ⟨ha, h⟩ | h := needsAux_next h
  · obtain ⟨mid, hm, h⟩ := withReg_next h
    exact .inr ⟨ha, mid, hm, endOk_next h⟩
  · exact .inl h

/-- What FLIGHTDATA can do. -/
theorem execFlightdata_next {s t : State} (h : execFlightdata s = .next t) :
    (s.params.hasAux = false ∧ t = s.setStatus (some Status.illegalOp.code)) ∨
      (s.params.hasAux = true ∧
        ((∃ x : Status, x ≠ .ok ∧ x ≠ .illegalOp ∧ t = (s.setFlight .none).setStatus (some x.code)) ∨
         ∃ v b c, t = (s.setFlight { height := some v, batt := some b, cam := some c }).setStatus
           (some Status.ok.code))) := by
  obtain ⟨ha, h⟩ | h := needsAux_next h
  · refine .inr ⟨ha, ?_⟩
    obtain ⟨a, n, -, -, ⟨-, h⟩ | ⟨-, h⟩⟩ := withRange_next h
    · exact .inl ⟨.badOperand, by decide, by decide, endWith_next h⟩
    · split at h
      · exact .inl ⟨.lengthMismatch, by decide, by decide, endWith_next h⟩
      · obtain ⟨lo, -, -, h⟩ := withByte_next h
        obtain ⟨hi, -, -, h⟩ := withByte_next h
        obtain ⟨b, -, -, h⟩ := withByte_next h
        obtain ⟨c, -, -, h⟩ := withByte_next h
        exact .inr ⟨_, _, _, endOk_next h⟩
  · exact .inl h

/-- What an illegal code does, in every state. -/
theorem execIllegal_eq (code : Byte) (s : State) :
    execIllegal code s = .next (s.setStatus (some Status.illegalOp.code)) := rfl

/-- What a wire-format row can do. -/
theorem putRow_next {place : Nat} {row : Instr} {s t : State} (h : putRow place row s = .next t) :
    place + (encode row).length ≤ s.params.bufCap ∧ t = s.setBuf (Memory.writeBytes s.buf place (encode row)) := by
  obtain ⟨hin, h⟩ := putBytes_next h
  cases h
  exact ⟨hin, rfl⟩

end Sys2Proof.Machine
end

