-- ==== Sys2Proof/Laws/Bytes.lean ====
section
/-! SUPPORT. Byte sequences: the byte at an offset of a part of a sequence, the lengths a size field stands for, and what
F_decode's answer says. -/

namespace Sys2Proof.Machine

theorem byteAt_eq_getElem {b : List Byte} {i : Nat} (h : i < b.length) : byteAt b i = b[i] := by
  simp [byteAt, List.getElem?_eq_getElem h]

theorem byteAt_take {b : List Byte} {n i : Nat} (h : i < n) : byteAt (b.take n) i = byteAt b i := by
  simp [byteAt, List.getD, h]

theorem byteAt_drop (b : List Byte) (n i : Nat) : byteAt (b.drop n) i = byteAt b (n + i) := by
  simp [byteAt, List.getD]

theorem byteAt_append_left {a b : List Byte} {i : Nat} (h : i < a.length) : byteAt (a ++ b) i = byteAt a i := by
  simp [byteAt, List.getD, List.getElem?_append_left h]

theorem byteAt_append_right {a b : List Byte} {i : Nat} (h : a.length ≤ i) :
    byteAt (a ++ b) i = byteAt b (i - a.length) := by
  simp [byteAt, List.getD, List.getElem?_append_right h]

theorem byteAt_of_take_eq {b b' : List Byte} {n i : Nat} (h : b'.take n = b.take n) (hi : i < n) :
    byteAt b' i = byteAt b i := by
  rw [← byteAt_take hi, h, byteAt_take hi]

/-- A byte sequence is its bytes but the last two, and the last two. -/
theorem take_append_last_two {b : List Byte} (h : 2 ≤ b.length) :
    b.take (b.length - 2) ++ [byteAt b (b.length - 2), byteAt b (b.length - 1)] = b := by
  have hd : b.drop (b.length - 2) = [byteAt b (b.length - 2), byteAt b (b.length - 1)] := by
    rw [byteAt_eq_getElem (by omega), byteAt_eq_getElem (by omega), List.drop_eq_getElem_cons (by omega),
      List.drop_eq_getElem_cons (by omega)]
    simp only [show b.length - 2 + 1 = b.length - 1 by omega, List.cons.injEq, true_and, List.drop_eq_nil_iff]
    omega
  rw [← hd, List.take_append_drop]

theorem Holds.take {m : Memory} {a : Nat} {b : List Byte} (h : Holds m a b) (n : Nat) : Holds m a (b.take n) := by
  intro k hk
  rw [List.length_take] at hk
  rw [byteAt_take (by omega)]
  exact h k (by omega)

/-- Two byte sequences of one length held at one place are equal. -/
theorem Holds.unique {m : Memory} {a : Nat} {b b' : List Byte} (h : Holds m a b) (h' : Holds m a b')
    (hl : b.length = b'.length) : b = b' := by
  refine List.ext_getElem hl fun i h1 h2 => ?_
  have e := (h i h1).symm.trans (h' i h2)
  rwa [Option.some.injEq, byteAt_eq_getElem h1, byteAt_eq_getElem h2] at e

/-- The total length is the size field divided by 8 (R57). -/
theorem lengthOf_toNat (sf : Half) : (lengthOf sf).toNat = sf.toNat / 8 := by
  simp [lengthOf, Nat.shiftRight_eq_div_pow]

/-- For a length a size field can express, the size field stands for it (R57, R180). -/
theorem lengthOf_sizeFieldFor {n : Nat} (h : n ≤ 8191) : lengthOf (sizeFieldFor n) = BitVec.ofNat 16 n := by
  apply BitVec.eq_of_toNat_eq
  simp only [lengthOf_toNat, sizeFieldFor, BitVec.toNat_shiftLeft, BitVec.toNat_ofNat, Nat.shiftLeft_eq]
  omega

/-- If F_decode accepts, every test passed and the gram is the bytes unpacked (R86). -/
theorem decodeGram_ok {c8 : List Byte → Byte} {c16 : List Byte → Half} {b : List Byte} {n : Nat} {g : Gram}
    (h : decodeGram c8 c16 b n = .ok g) :
    11 ≤ n ∧ gramLength b ≤ n ∧ 11 ≤ gramLength b ∧ c8 (b.take 3) = byteAt b 3 ∧
      c16 (b.take (gramLength b - 2)) = le16 (byteAt b (gramLength b - 2)) (byteAt b (gramLength b - 1)) ∧
      g = unpackGram (b.take (gramLength b)) := by
  unfold decodeGram at h
  split at h
  · cases h
  · split at h
    · cases h
    · split at h
      · cases h
      · split at h
        · cases h
        · simp only [Except.ok.injEq] at h
          simp only [fixedBytes] at *
          exact ⟨by omega, by omega, by omega, not_not.mp ‹_›, not_not.mp ‹_›, h.symm⟩

/-- Every code selects one of the eight operations or the illegal row (R66). -/
theorem decodeOp_cases {P : Instr → Prop} (h1 : P .crc8) (h2 : P .crc16) (h3 : P .decode) (h4 : P .encode)
    (h5 : P .classify) (h6 : P .hsreq) (h7 : P .dispatch) (h8 : P .flightdata) (h9 : ∀ c, P (.illegal c)) (code : Byte) :
    P (decodeOp code) := by
  unfold decodeOp
  repeat' split
  all_goals first | assumption | exact h9 _

end Sys2Proof.Machine
end

