-- ==== Sys2Proof/Laws/HostProgram.lean ====
section
/-! SUPPORT. What a host read and a list of host accesses can do; proofs about host programs cite these. -/

namespace Sys2Proof.Machine

/-- A host read of OP is refused. -/
theorem withRead_op {α : Type} (s : State) (k : Half → State → Host.Outcome α Fault Refusal) :
    withRead .op s k = .refused (.writeOnlyRegister .op) := rfl

/-- A host read of a register that holds a value goes on with it. -/
theorem withRead_some {α : Type} {r : Reg} {s : State} {v : Half} (k : Half → State → Host.Outcome α Fault Refusal)
    (hr : r ≠ .op) (hv : s.reg r = some v) : withRead r s k = k v (s.setHostRead (some v)) := by
  simp only [withRead, hr, if_false, hv, withReg_some]

/-- A host read of a register that holds `none` is refused. -/
theorem withRead_none {α : Type} {r : Reg} {s : State} (k : Half → State → Host.Outcome α Fault Refusal)
    (hr : r ≠ .op) (hv : s.reg r = none) : withRead r s k = .refused (.noRegisterValue r) := by
  simp only [withRead, hr, if_false, hv, withReg_none]

@[simp] theorem andThen_next {α : Type} (s : State) (k : State → Host.Outcome α Fault Refusal) :
    andThen (.next s) k = k s := rfl

@[simp] theorem runActions_nil (s : State) : runActions [] s = .next s := rfl

@[simp] theorem runActions_cons (a : HostAction) (as : List HostAction) (s : State) :
    runActions (a :: as) s = andThen (hostAct a s) (runActions as) := rfl

end Sys2Proof.Machine
end

