-- ==== Sys2Proof/Laws/PerInstr.lean ====
section
/-! SUPPORT. Families of statements for all rows, one lemma per constructor. -/

namespace Sys2Proof.Laws.EncodedLength

/-- A well-formed row has the number of bytes its format has in the table: 1 (OP8), 2 (ID16), 9 (WIRE72), 11 (WIRE88) or
24 (WIRE192). -/
def Statement (i : Instr) : Prop :=
  i.WellFormed = true → (encode i).length ∈ [1, 2, 9, 11, 24]

theorem crc8 : Statement .crc8 := fun _ => by decide
theorem crc16 : Statement .crc16 := fun _ => by decide
theorem decode : Statement .decode := fun _ => by decide
theorem encode : Statement .encode := fun _ => by decide
theorem classify : Statement .classify := fun _ => by decide
theorem hsreq : Statement .hsreq := fun _ => by decide
theorem dispatch : Statement .dispatch := fun _ => by decide
theorem flightdata : Statement .flightdata := fun _ => by decide
theorem illegal (code : Byte) : Statement (.illegal code) := fun _ => by simp [Sys2Proof.encode]
theorem gramHeader (len : BitVec 13) (low : BitVec 3) (crc8 : Byte) (f d : BitVec 1) (kind sub : BitVec 3) (id seq : Half) :
    Statement (.gramHeader len low crc8 f d kind sub id seq) := fun _ => by
  simp [Sys2Proof.encode, headerBytes, halfBytes]
theorem gramTodrone (len : BitVec 13) (crc8 : Byte) (kind : BitVec 3) (id seq : Half) :
    Statement (.gramTodrone len crc8 kind id seq) := fun _ => by
  simp [Sys2Proof.encode, headerBytes, halfBytes]
theorem gramKeepalive (crc8 : Byte) (seq crc16 : Half) : Statement (.gramKeepalive crc8 seq crc16) := fun _ => by
  simp [Sys2Proof.encode, halfBytes]
theorem msgConnectAckEcho : Statement .msgConnectAckEcho := fun _ => by decide
theorem msgKeepalive : Statement .msgKeepalive := fun _ => by decide
theorem msgFlightData : Statement .msgFlightData := fun _ => by decide
theorem hsConnReq (port : Half) : Statement (.hsConnReq port) := fun _ => by
  simp [Sys2Proof.encode, connReqPrefix, halfBytes]
theorem hsConnAck : Statement .hsConnAck := fun _ => by decide
theorem flightDataPayload (height : Half) (battery camera : Byte) (gap2 gap13 gap21 : List Byte) :
    Statement (.flightDataPayload height battery camera gap2 gap13 gap21) := fun h => by
  simp only [Instr.WellFormed, Bool.and_eq_true, beq_iff_eq] at h
  simp [Sys2Proof.encode, halfBytes, h.1.1, h.1.2, h.2]

end Sys2Proof.Laws.EncodedLength
end

