-- ==== Sys2Proof/Tests/Slice0.lean ====
section
/-! SUPPORT. Tests. Expected results are the spec's own vectors (95_test_vectors.md) and listings, or words written out from
its encodings. The theorems `witness_…` show that the hypotheses of the obligation of that name can be met, one for each
clause, at the boundary of its range. -/

namespace Sys2Proof.Tests

set_option Elab.async false

open Sys2Proof Sys2Proof.Machine

/-! ### Small states -/

/-- The state a step leaves, if it goes on. -/
def stateOf (o : Out) : Option State :=
  match o with
  | .next s => some s
  | .fault _ => none
  | .refused _ => none

/-- Why a step was refused, if it was. -/
def refusalOf (o : Out) : Option Refusal :=
  match o with
  | .next _ => none
  | .fault _ => none
  | .refused r => some r

/-- The result registers STATUS and `G_*` after a step. -/
def gramAfter (o : Out) : Option (Option Byte × GramRegs) := (stateOf o).map fun s => (s.status, s.gram)

/-- STATUS, ELEN and the first `n` bytes of BUF after a step. -/
def sentAfter (n : Nat) (o : Out) : Option (Option Byte × Option Half × List (Option Byte)) :=
  (stateOf o).map fun s => (s.status, s.elen, (List.range n).map (Memory.read s.buf))

/-- A block whose operand registers, BUF from index 0 and PAY from index 0 hold the given values. -/
def block (p : Params) (o : OperandRegs) (buf pay : List Byte) : State :=
  ((State.resetWith p).setOperands o).setBuf (Memory.writeBytes [] 0 buf) |>.setPay (Memory.writeBytes [] 0 pay)

/-- A build with small memories, so that they can be filled. -/
def small : Params := { Params.default with bufCap := 14, maxPayload := 3 }

/-- The default build. -/
def usual : Params := Params.default

/-- No operand register holds a value. -/
abbrev noOps : OperandRegs := OperandRegs.none

/-- Operand registers for ENCODE. -/
def sending (kind : Byte) (mid seq plen : Half) : OperandRegs :=
  { noOps with kind := some kind, mid := some mid, seq := some seq, plen := some plen }

/-- Operand registers for a range. -/
def ranging (start count : Half) : OperandRegs := { noOps with start := some start, count := some count }

/-- RLEN alone. -/
def received (n : Half) : OperandRegs := { noOps with rlen := some n }

/-- The host's next access. -/
def next (a : HostAction) (s : State) : State := s.setPending [a]

/-! ### The bytes of the spec's vectors -/

/-- V12: the keepalive gram. -/
def v12 : List Byte := [0xCC, 0x58, 0x00, 0x7C, 0x60, 0x25, 0x00, 0x00, 0x00, 0x6C, 0x95]

/-- V14: three bytes of payload. -/
def v14 : List Byte := [0xCC, 0x70, 0x00, 0xCB, 0x48, 0x34, 0x12, 0xCD, 0xAB, 0x01, 0x02, 0x03, 0xD9, 0x49]

/-- The payload of E5. -/
def e5 : List Byte :=
  [0x64, 0x00, 0x00, 0x00, 0x00, 0x00, 0x00, 0x00, 0x00, 0x00, 0x00, 0x00, 0x4B, 0x00, 0x00, 0x00,
   0x00, 0x00, 0x00, 0x00, 0x01, 0x00, 0x00, 0x00]

/-- FG: the flight-data gram. -/
def fg : List Byte := [0xCC, 0x18, 0x01, 0xB9, 0x88, 0x56, 0x00, 0x01, 0x00] ++ e5 ++ [0x10, 0x9B]

/-- "123456789". -/
def digits : List Byte := [0x31, 0x32, 0x33, 0x34, 0x35, 0x36, 0x37, 0x38, 0x39]

/-! ### WellFormed: one ill-formed term for each check -/

theorem test_wf_illegal_refuses_a_legal_code :
    (Instr.illegal 0x01).WellFormed = false ∧ (Instr.illegal 0x08).WellFormed = false := by decide

theorem test_wf_header_refuses_the_todrone_pattern :
    (Instr.gramHeader 11 0 0x7C 0 1 4 0 0x0025 0).WellFormed = false := by decide

theorem test_wf_payload_refuses_wrong_lengths :
    (Instr.flightDataPayload 0 0 0 (List.replicate 9 0) (List.replicate 7 0) (List.replicate 3 0)).WellFormed = false ∧
    (Instr.flightDataPayload 0 0 0 (List.replicate 10 0) (List.replicate 8 0) (List.replicate 3 0)).WellFormed = false ∧
    (Instr.flightDataPayload 0 0 0 (List.replicate 10 0) (List.replicate 7 0) (List.replicate 2 0)).WellFormed = false := by
  decide

/-! ### Decoding: every row's bytes written out from its encoding -/

/-- R66: the codes of the nine OP8 rows. -/
theorem test_decode_operation_codes :
    decode [0b00000001] = .ok .crc8 ∧ decode [0b00000010] = .ok .crc16 ∧ decode [0b00000011] = .ok .decode ∧
    decode [0b00000100] = .ok .encode ∧ decode [0b00000101] = .ok .classify ∧ decode [0b00000110] = .ok .hsreq ∧
    decode [0b00000111] = .ok .dispatch ∧ decode [0b00001000] = .ok .flightdata ∧
    decode [0b00000000] = .ok (.illegal 0) ∧ decode [0b00001001] = .ok (.illegal 9) ∧
    decode [0b11111111] = .ok (.illegal 255) := by decide

/-- R53: `l` = 00011, `z` = 101, `L` = 1, `f` = 1, `d` = 0, `t` = 001, `u` = 110. -/
theorem test_decode_header :
    decode [0b11001100, 0b00011101, 0b00000001, 0xB9, 0b10001110, 0x56, 0x00, 0x01, 0x02] =
      .ok (.gramHeader 35 5 0xB9 1 0 1 6 0x0056 0x0201) := by decide

/-- R107: `l` = 01110, `t` = 001; V14's header. -/
theorem test_decode_todrone :
    decode [0b11001100, 0b01110000, 0b00000000, 0xCB, 0b01001000, 0x34, 0x12, 0xCD, 0xAB] =
      .ok (.gramTodrone 14 0xCB 1 0x1234 0xABCD) := by decide

/-- R114; V17b's bytes. -/
theorem test_decode_keepalive :
    decode [0b11001100, 0b01011000, 0b00000000, 0x7C, 0b01100000, 0b00100101, 0b00000000, 0x01, 0x00, 0xB4, 0x8C] =
      .ok (.gramKeepalive 0x7C 1 0x8CB4) := by decide

/-- R59: the three named ids, low byte first; another id is refused by name. -/
theorem test_decode_ids :
    decode [0b00000010, 0b00000000] = .ok .msgConnectAckEcho ∧ decode [0b00100101, 0b00000000] = .ok .msgKeepalive ∧
    decode [0b01010110, 0b00000000] = .ok .msgFlightData ∧
    decode [0b00000000, 0b01010110] = .error (.unknownMessageId 0x5600) := by decide

/-- R60: "conn_req:" and port 8040; "conn_ack:". -/
theorem test_decode_handshake :
    decode [0b01100011, 0b01101111, 0b01101110, 0b01101110, 0b01011111, 0b01110010, 0b01100101, 0b01110001, 0b00111010,
      0x68, 0x1F] = .ok (.hsConnReq 8040) ∧
    decode [0b01100011, 0b01101111, 0b01101110, 0b01101110, 0b01011111, 0b01100001, 0b01100011, 0b01101011,
      0b00111010] = .ok .hsConnAck := by decide

/-- R61: E5's payload. -/
theorem test_decode_payload :
    decode e5 = .ok (.flightDataPayload 100 75 1 (List.replicate 10 0) (List.replicate 7 0) [0, 0, 0]) := by decide

/-- Bytes that are no row are refused by name. -/
theorem test_decode_refuses :
    decode [] = .error (.noSuchLength 0) ∧ decode (List.replicate 9 0x63) = .error .unknownWire72 ∧
    decode (List.replicate 11 0xCC) = .error .unknownWire88 := by decide

/-- The table's numbers: bit 0 is the least significant bit of the first byte; HS_CONN_ACK's is the other way round. -/
theorem test_table_words :
    decodeTableWord 8 0x04 = some .encode ∧ decodeTableWord 16 0x0025 = some .msgKeepalive ∧
    decodeTableWord 72 0x636F6E6E5F61636B3A = some .hsConnAck ∧
    decodeTableWord 72 0x3A6B63615F6E6E6F63 = some .hsConnAck ∧
    decodeTableWord 72 0xABCD123448CB0070CC = some (.gramTodrone 14 0xCB 1 0x1234 0xABCD) := by decide +kernel

/-- From reset, `step` runs the loaded row as its first instruction (log 9). -/
theorem test_first_step_runs_an_operation :
    ((stateOf (step (State.reset.withFetchWord 8 0x03))).map fun s => (s.operands.op, s.status)) = some (some 3, some 1) ∧
    ((stateOf (step (State.reset.withFetchWord 8 0x09))).map fun s => (s.operands.op, s.status)) = some (some 9, some 6) := by
  decide +kernel

theorem test_first_step_places_a_row :
    sentAfter 7 (step (State.reset.withFetchWord 16 0x0056)) =
      some (none, none, [none, none, none, none, none, some 0x56, some 0x00]) := by decide +kernel

/-! ### Checksums -/

/-- Entries 0 to 63 of the listing. -/
def listedT8_0 : List Byte :=
  [0x00, 0x5E, 0xBC, 0xE2, 0x61, 0x3F, 0xDD, 0x83, 0xC2, 0x9C, 0x7E, 0x20, 0xA3, 0xFD, 0x1F, 0x41,
   0x9D, 0xC3, 0x21, 0x7F, 0xFC, 0xA2, 0x40, 0x1E, 0x5F, 0x01, 0xE3, 0xBD, 0x3E, 0x60, 0x82, 0xDC,
   0x23, 0x7D, 0x9F, 0xC1, 0x42, 0x1C, 0xFE, 0xA0, 0xE1, 0xBF, 0x5D, 0x03, 0x80, 0xDE, 0x3C, 0x62,
   0xBE, 0xE0, 0x02, 0x5C, 0xDF, 0x81, 0x63, 0x3D, 0x7C, 0x22, 0xC0, 0x9E, 0x1D, 0x43, 0xA1, 0xFF]

/-- Entries 64 to 127 of the listing. -/
def listedT8_1 : List Byte :=
  [0x46, 0x18, 0xFA, 0xA4, 0x27, 0x79, 0x9B, 0xC5, 0x84, 0xDA, 0x38, 0x66, 0xE5, 0xBB, 0x59, 0x07,
   0xDB, 0x85, 0x67, 0x39, 0xBA, 0xE4, 0x06, 0x58, 0x19, 0x47, 0xA5, 0xFB, 0x78, 0x26, 0xC4, 0x9A,
   0x65, 0x3B, 0xD9, 0x87, 0x04, 0x5A, 0xB8, 0xE6, 0xA7, 0xF9, 0x1B, 0x45, 0xC6, 0x98, 0x7A, 0x24,
   0xF8, 0xA6, 0x44, 0x1A, 0x99, 0xC7, 0x25, 0x7B, 0x3A, 0x64, 0x86, 0xD8, 0x5B, 0x05, 0xE7, 0xB9]

/-- Entries 128 to 191 of the listing. -/
def listedT8_2 : List Byte :=
  [0x8C, 0xD2, 0x30, 0x6E, 0xED, 0xB3, 0x51, 0x0F, 0x4E, 0x10, 0xF2, 0xAC, 0x2F, 0x71, 0x93, 0xCD,
   0x11, 0x4F, 0xAD, 0xF3, 0x70, 0x2E, 0xCC, 0x92, 0xD3, 0x8D, 0x6F, 0x31, 0xB2, 0xEC, 0x0E, 0x50,
   0xAF, 0xF1, 0x13, 0x4D, 0xCE, 0x90, 0x72, 0x2C, 0x6D, 0x33, 0xD1, 0x8F, 0x0C, 0x52, 0xB0, 0xEE,
   0x32, 0x6C, 0x8E, 0xD0, 0x53, 0x0D, 0xEF, 0xB1, 0xF0, 0xAE, 0x4C, 0x12, 0x91, 0xCF, 0x2D, 0x73]

/-- Entries 192 to 255 of the listing. -/
def listedT8_3 : List Byte :=
  [0xCA, 0x94, 0x76, 0x28, 0xAB, 0xF5, 0x17, 0x49, 0x08, 0x56, 0xB4, 0xEA, 0x69, 0x37, 0xD5, 0x8B,
   0x57, 0x09, 0xEB, 0xB5, 0x36, 0x68, 0x8A, 0xD4, 0x95, 0xCB, 0x29, 0x77, 0xF4, 0xAA, 0x48, 0x16,
   0xE9, 0xB7, 0x55, 0x0B, 0x88, 0xD6, 0x34, 0x6A, 0x2B, 0x75, 0x97, 0xC9, 0x4A, 0x14, 0xF6, 0xA8,
   0x74, 0x2A, 0xC8, 0x96, 0x15, 0x4B, 0xA9, 0xF7, 0xB6, 0xE8, 0x0A, 0x54, 0xD7, 0x89, 0x6B, 0x35]
/-- Entries 0 to 63 of the listing. -/
def listedT16_0 : List Half :=
  [0x0000, 0x1189, 0x2312, 0x329B, 0x4624, 0x57AD, 0x6536, 0x74BF,
   0x8C48, 0x9DC1, 0xAF5A, 0xBED3, 0xCA6C, 0xDBE5, 0xE97E, 0xF8F7,
   0x1081, 0x0108, 0x3393, 0x221A, 0x56A5, 0x472C, 0x75B7, 0x643E,
   0x9CC9, 0x8D40, 0xBFDB, 0xAE52, 0xDAED, 0xCB64, 0xF9FF, 0xE876,
   0x2102, 0x308B, 0x0210, 0x1399, 0x6726, 0x76AF, 0x4434, 0x55BD,
   0xAD4A, 0xBCC3, 0x8E58, 0x9FD1, 0xEB6E, 0xFAE7, 0xC87C, 0xD9F5,
   0x3183, 0x200A, 0x1291, 0x0318, 0x77A7, 0x662E, 0x54B5, 0x453C,
   0xBDCB, 0xAC42, 0x9ED9, 0x8F50, 0xFBEF, 0xEA66, 0xD8FD, 0xC974]

/-- Entries 64 to 127 of the listing. -/
def listedT16_1 : List Half :=
  [0x4204, 0x538D, 0x6116, 0x709F, 0x0420, 0x15A9, 0x2732, 0x36BB,
   0xCE4C, 0xDFC5, 0xED5E, 0xFCD7, 0x8868, 0x99E1, 0xAB7A, 0xBAF3,
   0x5285, 0x430C, 0x7197, 0x601E, 0x14A1, 0x0528, 0x37B3, 0x263A,
   0xDECD, 0xCF44, 0xFDDF, 0xEC56, 0x98E9, 0x8960, 0xBBFB, 0xAA72,
   0x6306, 0x728F, 0x4014, 0x519D, 0x2522, 0x34AB, 0x0630, 0x17B9,
   0xEF4E, 0xFEC7, 0xCC5C, 0xDDD5, 0xA96A, 0xB8E3, 0x8A78, 0x9BF1,
   0x7387, 0x620E, 0x5095, 0x411C, 0x35A3, 0x242A, 0x16B1, 0x0738,
   0xFFCF, 0xEE46, 0xDCDD, 0xCD54, 0xB9EB, 0xA862, 0x9AF9, 0x8B70]

/-- Entries 128 to 191 of the listing. -/
def listedT16_2 : List Half :=
  [0x8408, 0x9581, 0xA71A, 0xB693, 0xC22C, 0xD3A5, 0xE13E, 0xF0B7,
   0x0840, 0x19C9, 0x2B52, 0x3ADB, 0x4E64, 0x5FED, 0x6D76, 0x7CFF,
   0x9489, 0x8500, 0xB79B, 0xA612, 0xD2AD, 0xC324, 0xF1BF, 0xE036,
   0x18C1, 0x0948, 0x3BD3, 0x2A5A, 0x5EE5, 0x4F6C, 0x7DF7, 0x6C7E,
   0xA50A, 0xB483, 0x8618, 0x9791, 0xE32E, 0xF2A7, 0xC03C, 0xD1B5,
   0x2942, 0x38CB, 0x0A50, 0x1BD9, 0x6F66, 0x7EEF, 0x4C74, 0x5DFD,
   0xB58B, 0xA402, 0x9699, 0x8710, 0xF3AF, 0xE226, 0xD0BD, 0xC134,
   0x39C3, 0x284A, 0x1AD1, 0x0B58, 0x7FE7, 0x6E6E, 0x5CF5, 0x4D7C]

/-- Entries 192 to 255 of the listing. -/
def listedT16_3 : List Half :=
  [0xC60C, 0xD785, 0xE51E, 0xF497, 0x8028, 0x91A1, 0xA33A, 0xB2B3,
   0x4A44, 0x5BCD, 0x6956, 0x78DF, 0x0C60, 0x1DE9, 0x2F72, 0x3EFB,
   0xD68D, 0xC704, 0xF59F, 0xE416, 0x90A9, 0x8120, 0xB3BB, 0xA232,
   0x5AC5, 0x4B4C, 0x79D7, 0x685E, 0x1CE1, 0x0D68, 0x3FF3, 0x2E7A,
   0xE70E, 0xF687, 0xC41C, 0xD595, 0xA12A, 0xB0A3, 0x8238, 0x93B1,
   0x6B46, 0x7ACF, 0x4854, 0x59DD, 0x2D62, 0x3CEB, 0x0E70, 0x1FF9,
   0xF78F, 0xE606, 0xD49D, 0xC514, 0xB1AB, 0xA022, 0x92B9, 0x8330,
   0x7BC7, 0x6A4E, 0x58D5, 0x495C, 0x3DE3, 0x2C6A, 0x1EF1, 0x0F78]
/-- R77: the generating rule gives the listed table. -/
theorem test_t8_listing : t8Table = listedT8_0 ++ listedT8_1 ++ listedT8_2 ++ listedT8_3 := by decide +kernel

/-- R80: the generating rule gives the listed table. -/
theorem test_t16_listing : t16Table = listedT16_0 ++ listedT16_1 ++ listedT16_2 ++ listedT16_3 := by decide +kernel

/-- V1, V3, V5, V7, V10a to V10c. -/
theorem test_crc8_vectors :
    telloCrc8 [] = 0x77 ∧ telloCrc8 [0x00] = 0x7B ∧ telloCrc8 [0xFF] = 0x4E ∧ telloCrc8Serial digits = 0xFB ∧
    telloCrc8 [0xCC, 0x60, 0x00] = 0x27 ∧ telloCrc8 [0xCC, 0x70, 0x00] = 0xCB ∧
    telloCrc8 [0xCC, 0x18, 0x01] = 0xB9 := by decide +kernel

/-- V2, V4, V6, V8, V10. -/
theorem test_crc16_vectors :
    telloCrc16 [] = 0x3692 ∧ telloCrc16 [0x00] = 0xB7AD ∧ telloCrc16 [0xFF] = 0xB8D5 ∧ telloCrc16Serial digits = 0x7109 ∧
    telloCrc16 [0xCC, 0x58, 0x00, 0x7C, 0x60, 0x25, 0x00, 0x00, 0x00] = 0x956C := by decide +kernel

/-- V7: CRC8 of "123456789" at index 2. -/
theorem test_exec_crc8 :
    ((stateOf (exec .crc8 (block usual (ranging 2 9) ([0, 0] ++ digits) []))).map fun s => (s.status, s.crc8Out)) =
      some (some 0, some 0xFB) := by decide +kernel

/-- V11a, V11c: the end of BUF. -/
theorem test_exec_crc8_bounds :
    ((stateOf (exec .crc8 (block usual (ranging 2048 0) [] []))).map fun s => (s.status, s.crc8Out)) =
      some (some 0, some 0x77) ∧
    ((stateOf (exec .crc8 (block usual (ranging 2040 9) [] []))).map fun s => (s.status, s.crc8Out)) =
      some (some 5, none) := by decide +kernel

/-- V8: CRC16 of "123456789". -/
theorem test_exec_crc16 :
    ((stateOf (exec .crc16 (block usual (ranging 0 9) digits []))).map fun s => (s.status, s.crc16Out)) =
      some (some 0, some 0x7109) := by decide +kernel

/-- V11d: the sum 131070 is taken without wrap-around. -/
theorem test_exec_crc16_sum_does_not_wrap :
    ((stateOf (exec .crc16 (block usual (ranging 65535 65535) [] []))).map fun s => (s.status, s.crc16Out)) =
      some (some 5, none) := by decide +kernel

/-! ### DECODE and ENCODE -/

/-- V20. -/
theorem test_exec_decode :
    gramAfter (exec .decode (block usual (received 35) fg [])) = some (some 0,
      { header := some 0xCC, sizef := some 0x0118, size := some 35, crc8 := some 0xB9, disc := some 0x88, dir := some 2,
        kind := some 1, subtype := some 0, id := some 0x0056, seq := some 1, poff := some 9, plen := some 24,
        crc16 := some 0x9B10 }) := by decide +kernel

/-- V21 (byte order of the trailing checksum), V23, V24, V28, V29: the four errors. -/
theorem test_exec_decode_errors :
    gramAfter (exec .decode (block usual (received 11) (v12.take 9 ++ [0x95, 0x6C]) [])) = some (some 3, .none) ∧
    gramAfter (exec .decode (block usual (received 34) (fg.take 34) [])) = some (some 2, .none) ∧
    gramAfter (exec .decode (block usual (received 10) (v12.take 10) [])) = some (some 1, .none) ∧
    gramAfter (exec .decode (block usual (received 11) (handshakeRequest 8040) [])) = some (some 2, .none) ∧
    gramAfter (exec .decode (block usual (received 2049) [] [])) = some (some 5, .none) := by decide +kernel

/-- The direction, type and subtype of a gram DECODE accepts. -/
def kindsAfter (o : Out) : Option (List (Option Nat)) :=
  (stateOf o).map fun s =>
    [s.status.map (·.toNat), s.gram.dir.map (·.toNat), s.gram.kind.map (·.toNat), s.gram.subtype.map (·.toNat)]

/-- V25a to V25d: discriminators ENCODE never builds. -/
theorem test_decode_discriminators :
    kindsAfter (exec .decode (block usual (received 11)
      [0xCC, 0x58, 0x00, 0x7C, 0x00, 0x25, 0x00, 0x00, 0x00, 0xDF, 0x34] [])) = some [some 0, some 0, some 0, some 0] ∧
    kindsAfter (exec .decode (block usual (received 11)
      [0xCC, 0x58, 0x00, 0x7C, 0xC0, 0x25, 0x00, 0x00, 0x00, 0xA8, 0x7F] [])) = some [some 0, some 2, some 0, some 0] ∧
    kindsAfter (exec .decode (block usual (received 11)
      [0xCC, 0x58, 0x00, 0x7C, 0x07, 0x25, 0x00, 0x00, 0x00, 0x03, 0x04] [])) = some [some 0, some 0, some 0, some 7] ∧
    kindsAfter (exec .decode (block usual (received 11)
      [0xCC, 0x58, 0x00, 0x7C, 0xFF, 0x25, 0x00, 0x00, 0x00, 0x85, 0xC1] [])) = some [some 0, some 2, some 7, some 7] := by
  decide +kernel

/-- V26, V27: the magic is not tested and the low size bits are ignored. -/
theorem test_decode_accepts_magic_and_low_bits :
    ((stateOf (exec .decode (block usual (received 11)
      [0x00, 0x58, 0x00, 0x94, 0x60, 0x25, 0x00, 0x00, 0x00, 0xBC, 0x54] []))).map fun s => (s.status, s.gram.header)) =
      some (some 0, some 0x00) ∧
    ((stateOf (exec .decode (block usual (received 11)
      [0xCC, 0x5F, 0x00, 0x12, 0x60, 0x25, 0x00, 0x00, 0x00, 0x71, 0xB7] []))).map fun s => (s.status, s.gram.sizef,
        s.gram.size)) = some (some 0, some 0x005F, some 11) := by decide +kernel

/-- V14, and V16's 16 bytes of payload. -/
theorem test_exec_encode :
    sentAfter 14 (exec .encode (block usual (sending 9 0x1234 0xABCD 3) [] [0x01, 0x02, 0x03])) =
      some (some 0, some 14, v14.map some) ∧
    sentAfter 27 (exec .encode (block usual (sending 1 0x0100 0x0002 16) [] ((List.range 16).map fun i =>
      BitVec.ofNat 8 i))) = some (some 0, some 27, ([0xCC, 0xD8, 0x00, 0x53, 0x48, 0x00, 0x01, 0x02, 0x00, 0x00, 0x01,
        0x02, 0x03, 0x04, 0x05, 0x06, 0x07, 0x08, 0x09, 0x0A, 0x0B, 0x0C, 0x0D, 0x0E, 0x0F, 0xA4, 0x0F] : List Byte).map
          some) := by decide +kernel

/-- V17a: one byte more than MAX_PAYLOAD; BUF is unchanged. -/
theorem test_exec_encode_too_long :
    sentAfter 2 (exec .encode (block usual (sending 4 0x0025 0 1451) [0xAA] [])) = some (some 5, none, [some 0xAA, none]) := by
  decide +kernel

/-- The packet of 95_test_vectors.md section 5. -/
theorem test_encode_packet :
    encodeGram telloCrc8 telloCrc16 5 0x0054 0x01E4 [] =
      [0xCC, 0x58, 0x00, 0x7C, 0x68, 0x54, 0x00, 0xE4, 0x01, 0xC2, 0x16] := by decide +kernel

/-! ### The auxiliary operations -/

/-- V31, V31c. -/
theorem test_exec_classify :
    ((stateOf (exec .classify (block usual (received 11) (connAckPrefix ++ [0x68, 0x1F]) []))).map fun s =>
      (s.status, s.cls)) = some (some 0, some 1) ∧
    ((stateOf (exec .classify (block usual (received 11) (handshakeRequest 8040) []))).map fun s =>
      (s.status, s.cls)) = some (some 0, some 0) := by decide +kernel

/-- V31b, V31e. -/
theorem test_exec_classify_bounds :
    ((stateOf (exec .classify (block usual (received 8) connAckPrefix []))).map fun s => (s.status, s.cls)) =
      some (some 0, some 0) ∧
    ((stateOf (exec .classify (block usual (received 2049) [] []))).map fun s => (s.status, s.cls)) =
      some (some 5, none) := by decide +kernel

/-- V32. -/
theorem test_exec_hsreq :
    sentAfter 11 (exec .hsreq (block usual { noOps with port := some 8040 } [] [])) =
      some (some 0, some 11, ([0x63, 0x6F, 0x6E, 0x6E, 0x5F, 0x72, 0x65, 0x71, 0x3A, 0x68, 0x1F] : List Byte).map some) := by
  decide +kernel

/-- V33 to V35a. -/
theorem test_exec_dispatch :
    (([0x0056, 0x0002, 0x0025, 0x0156] : List Half).map fun mid =>
      (stateOf (exec .dispatch (block usual { noOps with mid := some mid } [] []))).map fun s => (s.status, s.dclass)) =
      [some (some 0, some 2), some (some 0, some 1), some (some 0, some 0), some (some 0, some 0)] := by decide +kernel

/-- V36, V36c. -/
theorem test_exec_flightdata :
    ((stateOf (exec .flightdata (block usual (ranging 9 24) fg []))).map fun s => (s.status, s.flight)) =
      some (some 0, { height := some 100, batt := some 75, cam := some 1 }) ∧
    ((stateOf (exec .flightdata (block usual (ranging 0 24) ([0x34, 0x12] ++ List.replicate 22 0xFF) []))).map fun s =>
      (s.status, s.flight)) = some (some 0, { height := some 4660, batt := some 255, cam := some 255 }) := by
  decide +kernel

/-- V36a, V36b, V36d. -/
theorem test_exec_flightdata_errors :
    (([(9, 23), (9, 25), (2040, 24)] : List (Half × Half)).map fun r =>
      (stateOf (exec .flightdata (block usual (ranging r.1 r.2) fg []))).map fun s => (s.status, s.flight)) =
      [some (some 4, .none), some (some 4, .none), some (some 5, .none)] := by decide +kernel

/-- V37, V37a. -/
theorem test_exec_illegal :
    stateOf (exec (.illegal 0x09) State.reset) = some (State.reset.setStatus (some 6)) ∧
    stateOf (exec .classify (State.resetWith { usual with hasAux := false })) =
      some ((State.resetWith { usual with hasAux := false }).setStatus (some 6)) := by decide +kernel

/-! ### Locations that hold `none` -/

/-- R16, R25: an unwritten operand register, and an unwritten byte, are not taken as zero. -/
theorem test_exec_refuses_none :
    refusalOf (exec .decode State.reset) = some (.noRegisterValue .rlen) ∧
    refusalOf (exec .crc8 (block usual (ranging 0 2) [0x00] [])) = some (.noByteValue .buf 1) ∧
    refusalOf (exec .encode (block usual (sending 4 0x0025 0 1) [] [])) = some (.noByteValue .pay 0) := by decide +kernel

/-- R16: the host does not take a class that holds `none` as a class. -/
theorem test_receive_refuses_none :
    receiveDispatched State.reset = .refused (.noRegisterValue .gId) ∧
    receiveTelemetry State.reset = .refused (.noRegisterValue .gPoff) ∧
    refusalOf (step (next (.readReg .dclass) State.reset)) = some (.noRegisterValue .dclass) := ⟨rfl, rfl, by decide⟩

/-! ### The wire-format rows -/

/-- R50, R38: the message id stands in bytes 5 and 6 of a gram. -/
theorem test_exec_message_ids :
    (([.msgConnectAckEcho, .msgKeepalive, .msgFlightData] : List Instr).map fun i =>
      sentAfter 7 (exec i (block usual noOps v12 []))) =
      ([0x02, 0x25, 0x56] : List Byte).map fun b =>
        some (none, none, [some 0xCC, some 0x58, some 0x00, some 0x7C, some 0x60, some b, some 0x00]) := by decide +kernel

/-- R38: the other formats start at index 0, the payload at 9. -/
theorem test_exec_placed_headers :
    sentAfter 9 (exec (.gramTodrone 14 0xCB 1 0x1234 0xABCD) State.reset) =
      some (none, none, (v14.take 9).map some) ∧
    sentAfter 9 (exec (.gramHeader 35 0 0xB9 1 0 1 0 0x0056 1) State.reset) = some (none, none, (fg.take 9).map some) ∧
    sentAfter 11 (exec (.gramKeepalive 0x7C 0 0x956C) State.reset) = some (none, none, v12.map some) := by decide +kernel

theorem test_exec_placed_messages :
    sentAfter 9 (exec .hsConnAck State.reset) = some (none, none, connAckPrefix.map some) ∧
    sentAfter 11 (exec (.hsConnReq 8040) State.reset) = some (none, none, (handshakeRequest 8040).map some) ∧
    sentAfter 33 (exec (.flightDataPayload 100 75 1 (List.replicate 10 0) (List.replicate 7 0) [0, 0, 0])
      (block usual noOps (fg.take 9) [])) = some (none, none, (fg.take 33).map some) := by decide +kernel

/-! ### Witnesses -/

/-- A state in which every operand register holds a value and every byte of BUF and PAY does: V14's gram, with the operands
that make it. -/
def full : State :=
  block small
    { op := none, start := some 0, count := some 9, rlen := some 14, kind := some 9, mid := some 0x1234, seq := some 0xABCD,
      plen := some 3, port := some 8040 } v14 [0x01, 0x02, 0x03]

theorem full_consistent : Consistent full where
  params := by decide
  canonical := fun m => by cases m <;> decide +kernel
  inside := fun m => by cases m <;> decide +kernel
  status := fun v h => by cases h
  dclass := fun v h => by cases h
  gram := .inl rfl
  flight := .inl rfl
  elen := fun v h => by cases h

theorem full_memories_valued : MemoriesValued full := fun m => by cases m <;> decide +kernel

theorem full_operands_valued (code : Byte) : OperandsValued (decodeOp code) full :=
  decodeOp_cases (P := fun i => OperandsValued i full) (by unfold OperandsValued; decide) (by unfold OperandsValued; decide)
    (by unfold OperandsValued; decide) (by unfold OperandsValued; decide) (by unfold OperandsValued; decide)
    (by unfold OperandsValued; decide) (by unfold OperandsValued; decide) (by unfold OperandsValued; decide)
    (fun _ => by unfold OperandsValued; simp [operandsRead]) code

/-- What ENCODE leaves in `full`. -/
def encoded : State :=
  ((full.setBuf (Memory.writeBytes full.buf 0 v14)).setElen (some 14)).setStatus (some 0)

theorem encode_full : exec .encode full = .next encoded := by
  have h : stateOf (exec .encode full) = some encoded := by decide +kernel
  revert h
  cases exec .encode full <;> simp [stateOf]

theorem witness_DecodeOfEncodeIsTheRow :
    (Instr.gramHeader 8191 7 0xFF 1 1 7 7 0xFFFF 0xFFFF).WellFormed = true ∧ (Instr.illegal 0x09).WellFormed = true ∧
    (Instr.illegal 0xFF).WellFormed = true ∧ (Instr.illegal 0x00).WellFormed = true ∧
    (Instr.flightDataPayload 0xFFFF 0xFF 0 (List.replicate 10 1) (List.replicate 7 2) [3, 4, 5]).WellFormed = true := by
  decide

theorem witness_RecognisedBytesAreTheRowsBytes : decode v12 = .ok (.gramKeepalive 0x7C 0 0x956C) := by decide

theorem witness_StepKeepsInvariant : ∃ t, Consistent (next (.issue 0x04) full) ∧ step (next (.issue 0x04) full) = .next t ∧
    t.status = some 0 := by
  refine ⟨encoded.setOperands { full.operands with op := some 4 }, ?_, ?_, rfl⟩
  · exact ⟨full_consistent.params, full_consistent.canonical, full_consistent.inside, full_consistent.status,
      full_consistent.dclass, full_consistent.gram, full_consistent.flight, full_consistent.elen⟩
  · have h : stateOf (step (next (.issue 0x04) full)) = some (encoded.setOperands { full.operands with op := some 4 }) := by
      decide +kernel
    revert h
    cases step (next (.issue 0x04) full) <;> simp [stateOf]

theorem witness_StepKeepsBuildAndOrder :
    step (next (.setStart 0xFFFF) full) = .next (full.setOperands { full.operands with start := some 0xFFFF }) := rfl

theorem witness_StepRunsTheDecodedRow :
    ((next (.issue 0x00) full).pending = [.issue 0x00] ∧ decode [0x00] = .ok (.illegal 0)) ∧
    ((next (.issue 0x08) full).pending = [.issue 0x08] ∧ decode [0x08] = .ok .flightdata) ∧
    ((next (.place [0x02, 0x00]) full).pending = [.place [0x02, 0x00]] ∧ [(0x02 : Byte), 0x00].length ≠ 1 ∧
      decode [0x02, 0x00] = .ok .msgConnectAckEcho) ∧
    ((next (.place [0x03, 0x00]) full).pending = [.place [0x03, 0x00]] ∧
      decodeMessage [0x03, 0x00] = .error (.unknownMessageId 3)) := by decide

theorem witness_IdleBlockHolds : State.reset.pending = [] := rfl

theorem witness_HostWritesOneOperand :
    (next (.setStart 0xFFFF) full).pending = [.setStart 0xFFFF] ∧ (next (.setCount 0) full).pending = [.setCount 0] ∧
    (next (.setRlen 0xFFFF) full).pending = [.setRlen 0xFFFF] ∧ (next (.setKind 0xFF) full).pending = [.setKind 0xFF] ∧
    (next (.setMid 0) full).pending = [.setMid 0] ∧ (next (.setSeq 1) full).pending = [.setSeq 1] ∧
    (next (.setPlen 2) full).pending = [.setPlen 2] ∧ (next (.setPort 8040) full).pending = [.setPort 8040] := by decide

/-- The last bytes of each memory, and one byte more. -/
theorem witness_HostWritesBytes :
    ((next (.writeBytes .buf 12 [1, 2]) full).pending = [.writeBytes .buf 12 [1, 2]] ∧
      12 + [(1 : Byte), 2].length ≤ full.params.bufCap) ∧
    ((next (.writeBytes .pay 2 [3]) full).pending = [.writeBytes .pay 2 [3]] ∧
      2 + [(3 : Byte)].length ≤ full.params.maxPayload) ∧
    ((next (.writeBytes .buf 13 [1, 2]) full).pending = [.writeBytes .buf 13 [1, 2]] ∧
      capacity full.params .buf < 13 + [(1 : Byte), 2].length) ∧
    ((next (.writeBytes .pay 3 [1]) full).pending = [.writeBytes .pay 3 [1]] ∧
      capacity full.params .pay < 3 + [(1 : Byte)].length) := by decide

theorem witness_HostReadsARegister :
    (next (.readReg .op) full).pending = [.readReg .op] ∧
    ((next (.readReg .status) full).pending = [.readReg .status] ∧ (next (.readReg .status) full).reg .status = none) ∧
    ((next (.readReg .kind) full).pending = [.readReg .kind] ∧ (next (.readReg .kind) full).reg .kind = some 9) := by decide

theorem witness_HostReadsAByte :
    ((next (.readByte .buf 2048) State.reset).pending = [.readByte .buf 2048] ∧
      capacity State.reset.params .buf ≤ 2048) ∧
    ((next (.readByte .buf 2047) State.reset).pending = [.readByte .buf 2047] ∧ 2047 < capacity State.reset.params .buf ∧
      Memory.read (State.reset.mem .buf) 2047 = none) ∧
    ((next (.readByte .pay 2) full).pending = [.readByte .pay 2] ∧ 2 < capacity full.params .pay ∧
      Memory.read (full.mem .pay) 2 = some 0x03) := by decide +kernel

theorem witness_HostResetClearsEverything : (next .reset full).pending = [.reset] := rfl

theorem witness_EveryIssueCompletes (code : Byte) :
    (next (.issue code) full).params.Wf ∧ MemoriesValued (next (.issue code) full) ∧
    OperandsValued (decodeOp code) (next (.issue code) full) ∧ (next (.issue code) full).pending = [.issue code] :=
  ⟨full_consistent.params, full_memories_valued, full_operands_valued code, rfl⟩

/-- A core operation in a build without HAS_AUX, and an auxiliary one in a build with it. -/
theorem witness_IssueWithoutOperandRefused :
    (Present .encode (State.resetWith { usual with hasAux := false }) ∧
      ¬ OperandsValued .encode (State.resetWith { usual with hasAux := false })) ∧
    (Present .hsreq State.reset ∧ ¬ OperandsValued .hsreq State.reset) ∧
    ¬ OperandsValued .crc8 (block usual { noOps with start := some 0 } [] []) := by
  unfold OperandsValued Present
  decide

/-- The last byte of a range, for CRC8 and CRC16. -/
theorem witness_IssueWithoutOperandRefused_range :
    let s := block small (ranging 5 9) (v14.take 13) []
    OperandsValued .crc8 s ∧ ReadsByte .crc8 s .buf 13 ∧ OperandsValued .crc16 s ∧ ReadsByte .crc16 s .buf 13 ∧
    Memory.read (s.mem .buf) 13 = none :=
  ⟨by unfold OperandsValued; decide, ⟨5, 9, by decide⟩, by unfold OperandsValued; decide, ⟨5, 9, by decide⟩,
    by decide +kernel⟩

/-- DECODE: a byte of the size field, the stored 8-bit checksum, and the last byte of the gram. -/
theorem witness_IssueWithoutOperandRefused_decode :
    let s (n : Nat) := block small (received 11) (v12.take n) []
    OperandsValued .decode (s 1) ∧ ReadsByte .decode (s 1) .buf 1 ∧ Memory.read ((s 1).mem .buf) 1 = none ∧
    ReadsByte .decode (s 3) .buf 3 ∧ Memory.read ((s 3).mem .buf) 3 = none ∧
    ReadsByte .decode (s 10) .buf 10 ∧ Memory.read ((s 10).mem .buf) 10 = none :=
  ⟨by unfold OperandsValued; decide, ⟨rfl, 11, by decide, by decide, by decide, .inl rfl⟩, by decide +kernel,
    ⟨rfl, 11, by decide, by decide, by decide, .inr (.inr ⟨0x58, 0x00, by decide +kernel⟩)⟩, by decide +kernel,
    ⟨rfl, 11, by decide, by decide, by decide, .inr (.inr ⟨0x58, 0x00, by decide +kernel, by decide +kernel, by decide,
      by decide, .inr ⟨by decide, 0xCC, 0x7C, by decide +kernel⟩⟩)⟩, by decide +kernel⟩

/-- ENCODE: the last byte of the payload. -/
theorem witness_IssueWithoutOperandRefused_encode :
    let s := block small (sending 9 0x1234 0xABCD 3) [] [0x01, 0x02]
    OperandsValued .encode s ∧ ReadsByte .encode s .pay 2 ∧ Memory.read (s.mem .pay) 2 = none :=
  ⟨by unfold OperandsValued; decide, ⟨rfl, 3, by decide⟩, by decide +kernel⟩

/-- CLASSIFY: the last byte of the prefix. FLIGHTDATA: the camera state. -/
theorem witness_IssueWithoutOperandRefused_framing :
    let s := block small (received 9) (connAckPrefix.take 8) []
    let t := block { usual with bufCap := 33, maxPayload := 0 } (ranging 9 24) (fg.take 29) []
    (Present .classify s ∧ OperandsValued .classify s ∧ ReadsByte .classify s .buf 8 ∧
      Memory.read (s.mem .buf) 8 = none) ∧
    (Present .flightdata t ∧ OperandsValued .flightdata t ∧ ReadsByte .flightdata t .buf 29 ∧
      Memory.read (t.mem .buf) 29 = none) :=
  ⟨⟨fun _ => rfl, by unfold OperandsValued; decide, ⟨rfl, 9, by decide⟩, by decide +kernel⟩,
    ⟨fun _ => rfl, by unfold OperandsValued; decide, ⟨rfl, 9, by decide⟩, by decide +kernel⟩⟩

theorem witness_OperationsStayInBounds : full.params.Wf ∧ State.reset.params.Wf := by decide

theorem witness_RegistersOutsideWriteSetKept : exec .encode full = .next encoded := encode_full

theorem witness_ReadingOperationsKeepBuf :
    storesToBuf (.illegal 0) = false ∧ exec (.illegal 0) full = .next (full.setStatus (some 6)) := ⟨rfl, rfl⟩

theorem witness_IssueOverwritesStatus : exec (decodeOp 0x04) full = .next encoded := encode_full

/-- An error of an operation, and the illegal operation. -/
theorem witness_ErrorLeavesNoPartialResult :
    (exec (decodeOp 0x03) (block usual (received 10) [] []) =
        .next ((block usual (received 10) [] []).setStatus (some 1)) ∧
      ((block usual (received 10) [] []).setStatus (some 1)).status ≠ some 0) ∧
    (exec (decodeOp 0x09) full = .next (full.setStatus (some 6)) ∧ (full.setStatus (some 6)).status ≠ some 0) :=
  ⟨⟨rfl, by decide⟩, ⟨rfl, by decide⟩⟩

theorem witness_ResultsDoNotDependOnHistory :
    Present .encode full ∧ SameInputs full ((full.setElen (some 0)).setStatus (some 3)) ∧
    exec .encode full = .next encoded := ⟨fun _ => rfl, ⟨rfl, rfl, rfl, rfl⟩, encode_full⟩

/-- One byte too many; the last byte of BUF; nothing at the end of BUF. -/
theorem witness_Crc8Outcome :
    small.bufCap < (6 : Half).toNat + (9 : Half).toNat ∧
    ((5 : Half).toNat + (9 : Half).toNat ≤ small.bufCap ∧ (v14.drop 5).length = (9 : Half).toNat ∧
      Holds full.buf (5 : Half).toNat (v14.drop 5)) ∧
    ((14 : Half).toNat + (0 : Half).toNat ≤ small.bufCap ∧ Holds full.buf (14 : Half).toNat []) ∧
    (block small (ranging 6 9) v14 []).operands.start = some 6 ∧ (block small (ranging 6 9) v14 []).operands.count = some 9 := by
  unfold Holds
  decide +kernel

theorem witness_Crc16Outcome :
    usual.bufCap < (65535 : Half).toNat + (65535 : Half).toNat ∧
    ((5 : Half).toNat + (9 : Half).toNat ≤ small.bufCap ∧ (v14.drop 5).length = (9 : Half).toNat ∧
      Holds full.buf (5 : Half).toNat (v14.drop 5)) ∧
    (block small (ranging 5 9) v14 []).operands.start = some 5 ∧ (block small (ranging 5 9) v14 []).operands.count = some 9 := by
  unfold Holds
  decide +kernel

theorem witness_TelloChecksumsAreAffine : v12.length = (v14.take 11).length := by decide

theorem witness_TelloChecksumsNoticeEveryBit : 0 < 8 * [(0x00 : Byte)].length ∧ 87 < 8 * v12.length := by decide

theorem witness_DecodeOfAValidGram :
    (received 12).rlen = some 12 ∧ (12 : Half).toNat ≤ usual.bufCap ∧ v12.length ≤ (12 : Half).toNat ∧ 11 ≤ v12.length ∧
    Holds (block usual (received 12) v12 []).buf 0 v12 ∧
    (le16 (byteAt v12 1) (byteAt v12 2)).toNat / 8 = v12.length ∧ usual.crc8 (v12.take 3) = byteAt v12 3 ∧
    usual.crc16 (v12.take (v12.length - 2)) = le16 (byteAt v12 (v12.length - 2)) (byteAt v12 (v12.length - 1)) := by
  unfold Holds
  decide +kernel

theorem witness_DecodeBeyondCapacity : (received 2049).rlen = some 2049 ∧ usual.bufCap < (2049 : Half).toNat := by decide

theorem witness_DecodeTooShort : usual.Wf ∧ (received 10).rlen = some 10 ∧ (10 : Half).toNat < 11 := by decide

/-- A length one above RLEN, one below 11, and 11 itself. -/
theorem witness_DecodeSizeMismatch :
    (received 11).rlen = some 11 ∧ (11 : Half).toNat ≤ small.bufCap ∧ 11 ≤ (11 : Half).toNat ∧
    (Memory.read (block small (received 11) [0xCC, 0x60, 0x00] []).buf 1 = some 0x60 ∧
      Memory.read (block small (received 11) [0xCC, 0x60, 0x00] []).buf 2 = some 0x00 ∧
      (11 : Half).toNat < (le16 0x60 0x00).toNat / 8) ∧
    (Memory.read (block small (received 11) [0xCC, 0x57, 0x00] []).buf 1 = some 0x57 ∧
      Memory.read (block small (received 11) [0xCC, 0x57, 0x00] []).buf 2 = some 0x00 ∧
      (le16 0x57 0x00).toNat / 8 < 11) ∧
    (Memory.read (block small (received 11) v12 []).buf 1 = some 0x58 ∧
      Memory.read (block small (received 11) v12 []).buf 2 = some 0x00 ∧
      (le16 0x58 0x00).toNat / 8 ≤ (11 : Half).toNat ∧ 11 ≤ (le16 0x58 0x00).toNat / 8 ∧
      (stateOf (exec .decode (block small (received 11) v12 []))).isSome) := by decide +kernel

/-- A wrong 8-bit checksum; a right one and a wrong 16-bit checksum. -/
theorem witness_DecodeChecksumInvalid :
    let wrong8 : List Byte := [0xCC, 0x58, 0x00, 0x7D, 0x60, 0x25, 0x00, 0x00, 0x00, 0x6C, 0x95]
    let wrong16 : List Byte := v12.take 9 ++ [0x95, 0x6C]
    (11 : Half).toNat ≤ small.bufCap ∧ wrong8.length ≤ (11 : Half).toNat ∧ 11 ≤ wrong8.length ∧
    Holds (block small (received 11) wrong8 []).buf 0 wrong8 ∧
    (le16 (byteAt wrong8 1) (byteAt wrong8 2)).toNat / 8 = wrong8.length ∧ small.crc8 (wrong8.take 3) ≠ byteAt wrong8 3 ∧
    Holds (block small (received 11) wrong16 []).buf 0 wrong16 ∧ wrong16.length = 11 ∧
    (le16 (byteAt wrong16 1) (byteAt wrong16 2)).toNat / 8 = wrong16.length ∧
    small.crc8 (wrong16.take 3) = byteAt wrong16 3 ∧
    small.crc16 (wrong16.take (wrong16.length - 2)) ≠
      le16 (byteAt wrong16 (wrong16.length - 2)) (byteAt wrong16 (wrong16.length - 1)) := by
  unfold Holds
  decide +kernel

/-- Which gram of a keepalive F_decode gives. -/
def v12Gram : Gram :=
  { header := 0xCC, sizeField := 0x0058, size := 11, crc8 := 0x7C, discriminator := 0x60, direction := .toDrone, kind := 4,
    subtype := 0, id := 0x0025, sequence := 0, payload := [], crc16 := 0x956C }

theorem v12_decodes : decodeGram telloCrc8 telloCrc16 v12 11 = .ok v12Gram := by decide +kernel

theorem witness_DecodeComputesFDecode :
    (received 11).rlen = some 11 ∧ (11 : Half).toNat ≤ small.bufCap ∧ v12.length = (11 : Half).toNat ∧
    Holds (block small (received 11) v12 []).buf 0 v12 ∧ decodeGram small.crc8 small.crc16 v12 11 = .ok v12Gram ∧
    Holds (block small (received 10) (v12.take 10) []).buf 0 (v12.take 10) ∧
    decodeGram small.crc8 small.crc16 (v12.take 10) 10 = .error .tooShort := by
  unfold Holds
  decide +kernel

theorem witness_TrailingBytesIgnored :
    11 ≤ v12.length ∧ 13 ≤ (v12 ++ [0xAA, 0xBB]).length ∧ decodeGram telloCrc8 telloCrc16 v12 11 = .ok v12Gram ∧
    v12Gram.size.toNat ≤ 13 ∧ (v12 ++ [0xAA, 0xBB]).take v12Gram.size.toNat = v12.take v12Gram.size.toNat :=
  ⟨by decide, by decide, v12_decodes, by decide, by decide⟩

theorem witness_DecodeIdempotent :
    exec .decode (block usual (received 0) [] []) = .next ((block usual (received 0) [] []).setStatus (some 1)) ∧
    ((block usual (received 0) [] []).setElen (some 11)).params = (block usual (received 0) [] []).params ∧
    ((block usual (received 0) [] []).setElen (some 11)).operands.rlen = (block usual (received 0) [] []).operands.rlen ∧
    ((block usual (received 0) [] []).setElen (some 11)).buf = (block usual (received 0) [] []).buf := ⟨rfl, rfl, rfl, rfl⟩

/-- A payload of MAX_PAYLOAD bytes, and one byte more. -/
theorem witness_EncodeOutcome :
    (full.operands.kind = some 9 ∧ full.operands.mid = some 0x1234 ∧ full.operands.seq = some 0xABCD ∧
      full.operands.plen = some 3 ∧ full.params.Wf ∧ (3 : Half).toNat ≤ full.params.maxPayload ∧
      [(0x01 : Byte), 0x02, 0x03].length = (3 : Half).toNat ∧ Holds full.pay 0 [0x01, 0x02, 0x03]) ∧
    ((sending 0 0 0 4).plen = some 4 ∧ small.maxPayload < (4 : Half).toNat) := by
  unfold Holds
  decide +kernel

theorem witness_EncodedBytesAreTheFields (b : Byte) :
    (List.replicate 8180 b).length ≤ 8180 ∧ ([] : List Byte).length ≤ 8180 :=
  ⟨(List.length_replicate).le, Nat.zero_le _⟩

theorem witness_DecodeUndoesEncode :
    ([] : List Byte).length ≤ 8180 ∧ 11 + ([] : List Byte).length ≤ 11 ∧
    11 ≤ 11 + ([] : List Byte).length + [(0xAA : Byte)].length := by decide

theorem witness_EncodeThenDecodeOnTheDevice :
    full.params.Wf ∧ exec .encode full = .next encoded ∧ encoded.status = some 0 ∧ encoded.elen = some 14 :=
  ⟨full_consistent.params, encode_full, rfl, rfl⟩

theorem witness_EncodeRebuildsACanonicalGram :
    11 ≤ v12.length ∧ decodeGram telloCrc8 telloCrc16 v12 11 = .ok v12Gram ∧ v12Gram.header = 0xCC ∧
    v12Gram.discriminator.extractLsb' 6 2 = 1 ∧ v12Gram.subtype = 0 ∧ v12Gram.sizeField.extractLsb' 0 3 = 0 :=
  ⟨by decide, v12_decodes, by decide, by decide, by decide, by decide⟩

/-- The exclusive or of all bytes: the simplest function with P8. -/
def xorAll (s : List Byte) : Byte := s.foldr (· ^^^ ·) 0

theorem xorAll_flipBit {s : List Byte} {k : Nat} (h : k < 8 * s.length) :
    xorAll (flipBit s k) = xorAll s ^^^ (1#8 <<< (k % 8)) := by
  induction s generalizing k with
  | nil => simp at h
  | cons b s ih =>
    simp only [flipBit]
    split
    · rename_i hk
      rw [Nat.mod_eq_of_lt hk]
      simp only [xorAll, List.foldr_cons]
      rw [BitVec.xor_assoc, BitVec.xor_assoc, BitVec.xor_comm (1#8 <<< k)]
    · have := ih (k := k - 8) (by simp only [List.length_cons] at h; omega)
      rw [show (k - 8) % 8 = k % 8 by omega] at this
      simp only [xorAll, List.foldr_cons] at *
      rw [this, BitVec.xor_assoc]

theorem xorAll_notices {s : List Byte} {k : Nat} (h : k < 8 * s.length) : xorAll (flipBit s k) ≠ xorAll s := by
  rw [xorAll_flipBit h]
  have key : ∀ x : Byte, ∀ j < 8, x ^^^ (1#8 <<< j) ≠ x := by decide +kernel
  exact key _ _ (Nat.mod_lt _ (by decide))

/-- Checksum functions with P8 and P16; a bit outside the size field, its low bits, its length bits at both ends, and the
last bit of the shortest gram; both errors. -/
theorem witness_SingleBitChangeRejected :
    P8 xorAll ∧ P16 (fun s => (xorAll s).setWidth 16) ∧ ([] : List Byte).length ≤ 8180 ∧
    (∀ k ∈ [0, 10, 11, 23, 24, 87], k < 8 * (11 + ([] : List Byte).length)) ∧ 11 ^^^ 2 ^ (11 - 11) < 11 ∧
    11 < 11 ^^^ 2 ^ (23 - 11) := by
  refine ⟨fun s _ k hk => xorAll_notices hk, fun s _ k hk h => xorAll_notices hk ?_, by decide, by decide, by decide,
    by decide⟩
  have := congrArg BitVec.toNat h
  simp only [BitVec.toNat_setWidth] at this
  apply BitVec.eq_of_toNat_eq
  have h1 := (xorAll (flipBit s k)).isLt
  have h2 := (xorAll s).isLt
  omega

theorem witness_EncodeBuildsTheTodroneHeader : [(0x01 : Byte), 0x02, 0x03].length ≤ 8180 := by decide

/-- RLEN one beyond BUF; one byte too few for the prefix; just enough. -/
theorem witness_ClassifyOutcome :
    small.hasAux = true ∧ (received 15).rlen = some 15 ∧ small.bufCap < (15 : Half).toNat ∧
    ((8 : Half).toNat ≤ small.bufCap ∧ (8 : Half).toNat < 9) ∧
    ((9 : Half).toNat ≤ small.bufCap ∧ 9 ≤ (9 : Half).toNat ∧ connAckPrefix.length = 9 ∧
      Holds (block small (received 9) connAckPrefix []).buf 0 connAckPrefix) := by
  unfold Holds
  decide +kernel

theorem witness_HsreqOutcome : full.params.Wf ∧ full.params.hasAux = true ∧ full.operands.port = some 8040 := by decide

theorem witness_DispatchOutcome : full.params.hasAux = true ∧ full.operands.mid = some 0x1234 := by decide

/-- A range one byte beyond BUF; one byte too few; the last 24 bytes of a BUF of 33. -/
theorem witness_FlightdataOutcome :
    let p : Params := { usual with bufCap := 33, maxPayload := 0 }
    let s := block p (ranging 9 24) (fg.take 33) []
    p.hasAux = true ∧ s.operands.start = some 9 ∧ s.operands.count = some 24 ∧
    p.bufCap < (10 : Half).toNat + (24 : Half).toNat ∧
    ((9 : Half).toNat + (23 : Half).toNat ≤ p.bufCap ∧ (23 : Half).toNat ≠ 24) ∧
    ((9 : Half).toNat + (24 : Half).toNat ≤ p.bufCap ∧ Memory.read s.buf 9 = some 0x64 ∧
      Memory.read s.buf (9 + 1) = some 0x00 ∧ Memory.read s.buf (9 + 12) = some 0x4B ∧
      Memory.read s.buf (9 + 20) = some 0x01) := by decide +kernel

theorem witness_FlightdataComputesTheRecord :
    let p : Params := { usual with bufCap := 33, maxPayload := 0 }
    let s := block p (ranging 9 24) (fg.take 33) []
    p.hasAux = true ∧ s.operands.start = some 9 ∧ s.operands.count = some 24 ∧ (9 : Half).toNat + 24 ≤ p.bufCap ∧
    Holds s.buf (9 : Half).toNat e5 ∧ decodeFlightData e5 = .ok { height := 100, battery := 75, camera := 1 } := by
  unfold Holds
  decide +kernel

/-- Illegal codes at both ends of their range; the auxiliary codes at both ends of theirs, in a build without them. -/
theorem witness_OperationSelectCode :
    (0 : Byte) = 0 ∧ 9 ≤ (9 : Byte).toNat ∧ 9 ≤ (255 : Byte).toNat ∧
    (State.resetWith { usual with hasAux := false }).params.hasAux = false ∧ 5 ≤ (5 : Byte).toNat ∧ (5 : Byte).toNat ≤ 8 ∧
    5 ≤ (8 : Byte).toNat ∧ (8 : Byte).toNat ≤ 8 := by decide

theorem witness_EncodedGramIsNoAcknowledgement :
    full.params.Wf ∧ full.params.hasAux = true ∧ exec .encode full = .next encoded ∧ encoded.status = some 0 ∧
    encoded.elen = some 14 ∧ (14 : Half).toNat ≤ (14 : Half).toNat :=
  ⟨full_consistent.params, rfl, encode_full, rfl, rfl, by decide⟩

/-- An acknowledgement, a gram that is dropped, and an unhandled one, all in a BUF they fill, in a build with HAS_AUX and in
one without. -/
theorem witness_ReceivePathConcludes :
    let p : Params := { usual with bufCap := 11, maxPayload := 0 }
    p.Wf ∧ { p with hasAux := false }.Wf ∧ p.hasAux = true ∧ v12.length ≤ p.bufCap ∧
    isHandshakeAck (connAckPrefix ++ [0x68, 0x1F]) 11 = true ∧ isHandshakeAck v12 11 = false ∧
    decodeGram p.crc8 p.crc16 v12 11 = .ok v12Gram ∧ classOfId v12Gram.id = .unhandled ∧
    decodeGram p.crc8 p.crc16 (v12.take 10) 10 = .error .tooShort := by decide +kernel

/-- The smallest build, with a gram that fills its BUF. -/
theorem witness_PseudoOperations :
    let s := block { usual with bufCap := 11, maxPayload := 0 } (received 11) v12 []
    s.params.Wf ∧ ((v12.take 3).length = 3 ∧ Holds s.buf 0 (v12.take 3)) ∧
    (11 ≤ (11 : Half).toNat ∧ (11 : Half).toNat ≤ s.params.bufCap ∧ (v12.take 9).length = (11 : Half).toNat - 2 ∧
      Holds s.buf 0 (v12.take 9)) ∧
    (s.operands.rlen = some 11 ∧ v12.length = (11 : Half).toNat ∧ Holds s.buf 0 v12) := by
  unfold Holds
  decide +kernel

/-- Each format just fits. -/
theorem witness_WireRowsStoreTheirBytes :
    0 + (encode (.gramHeader 35 0 0xB9 1 0 1 0 0x0056 1)).length ≤ 9 ∧
    0 + (encode (.gramTodrone 14 0xCB 1 0x1234 0xABCD)).length ≤ 9 ∧
    0 + (encode (.gramKeepalive 0x7C 0 0x956C)).length ≤ 11 ∧ 5 + (encode .msgConnectAckEcho).length ≤ 7 ∧
    5 + (encode .msgKeepalive).length ≤ 7 ∧ 5 + (encode .msgFlightData).length ≤ 7 ∧
    0 + (encode (.hsConnReq 8040)).length ≤ 11 ∧ 0 + (encode .hsConnAck).length ≤ 9 ∧
    9 + (encode (.flightDataPayload 100 75 1 (List.replicate 10 0) (List.replicate 7 0) [0, 0, 0])).length ≤
      (33 : Nat) := by decide

theorem witness_PlacedAcknowledgementClassifies :
    let s := block small (received 9) [] []
    s.params.hasAux = true ∧ s.operands.rlen = some 9 ∧ 9 ≤ (9 : Half).toNat ∧ (9 : Half).toNat ≤ s.params.bufCap ∧
    stateOf (exec .hsConnAck s) = some (s.setBuf (Memory.writeBytes s.buf 0 connAckPrefix)) := by decide +kernel

theorem witness_PlacedFlightDataUnpacks :
    let row := Instr.flightDataPayload 100 75 1 (List.replicate 10 0) (List.replicate 7 0) [0, 0, 0]
    let s := block { usual with bufCap := 33, maxPayload := 0 } (ranging 9 24) [] []
    row.WellFormed = true ∧ s.params.hasAux = true ∧ s.operands.start = some 9 ∧ s.operands.count = some 24 ∧
    stateOf (exec row s) = some (s.setBuf (Memory.writeBytes s.buf 9 e5)) := by decide +kernel

end Sys2Proof.Tests
end

section
/-! The step and the host's accesses (R36, R40, R68): what each does in every case of its operands. -/

namespace Sys2Proof.Machine

theorem step_of_idle {s : State} (h : s.pending = []) : step s = .next s := by simp only [step, h]

theorem step_of_pending {s : State} {a : HostAction} {rest : List HostAction} (h : s.pending = a :: rest) :
    step s = hostAct a (s.setPending rest) := by simp only [step, h]

/-- A store that leaves the memory faults at the first index that does not exist (R9). -/
theorem putBytes_beyond {m : MemName} {a : Nat} {bs : List Byte} {s : State} (k : State → Out)
    (h : capacity s.params m < a + bs.length) :
    putBytes m a bs s k = .fault (.outOfRange m (max a (capacity s.params m))) := if_pos h

theorem readMemory_beyond {m : MemName} {i : Nat} {s : State} (h : capacity s.params m ≤ i) :
    readMemory m i s = .fault (.outOfRange m i) := if_pos h

theorem readMemory_none {m : MemName} {i : Nat} {s : State} (hin : i < capacity s.params m)
    (h : Memory.read (s.mem m) i = none) : readMemory m i s = .refused (.noByteValue m i) := by
  simp only [readMemory, Nat.not_le.mpr hin, if_false, h]

theorem readMemory_some {m : MemName} {i : Nat} {s : State} {v : Byte} (hin : i < capacity s.params m)
    (h : Memory.read (s.mem m) i = some v) : readMemory m i s = .next (s.setHostRead (some (v.setWidth 16))) := by
  simp only [readMemory, Nat.not_le.mpr hin, if_false, h]

/-- If a host read of a byte goes on, only what the host's last read returned has changed. -/
theorem readMemory_next {m : MemName} {i : Nat} {s t : State} (h : readMemory m i s = .next t) :
    ∃ v, t = s.setHostRead v := by
  by_cases hin : capacity s.params m ≤ i
  · rw [readMemory_beyond hin] at h
    cases h
  · rw [not_le] at hin
    cases hv : Memory.read (s.mem m) i with
    | none =>
      rw [readMemory_none hin hv] at h
      cases h
    | some v =>
      rw [readMemory_some hin hv] at h
      cases h
      exact ⟨_, rfl⟩

/-- If a host read of a register goes on, only what the host's last read returned has changed. -/
theorem readRegister_next {r : Reg} {s t : State} (h : readRegister r s = .next t) : ∃ v, t = s.setHostRead v := by
  by_cases hr : r = .op
  · subst hr
    cases h
  · simp only [readRegister, withRead, hr, if_false] at h
    obtain ⟨v, -, h⟩ := withReg_next h
    cases h
    exact ⟨_, rfl⟩

/-- Settles O12: a host write is one store of `putBytes`, which either lies inside the memory or faults. -/
theorem hostWritesBytes : Obligations.HostWritesBytes := by
  unfold Obligations.HostWritesBytes
  intro s rest a bs
  refine ⟨fun hp hin => ?_, fun hp hin => ?_, fun m hp hout => ?_⟩
  · rw [step_of_pending hp]
    exact ⟨_, putBytes_inside (m := .buf) .next hin, Memory.writeBytes_storedAt s.buf a bs⟩
  · rw [step_of_pending hp]
    exact ⟨_, putBytes_inside (m := .pay) .next hin, Memory.writeBytes_storedAt s.pay a bs⟩
  · rw [step_of_pending hp]
    exact putBytes_beyond .next hout

/-- Settles O14: the three cases of `readMemory`. -/
theorem hostReadsAByte : Obligations.HostReadsAByte := by
  unfold Obligations.HostReadsAByte
  intro s rest m i hp
  have hm : (s.setPending rest).mem m = s.mem m := by cases m <;> rfl
  rw [step_of_pending hp]
  refine ⟨fun hout => readMemory_beyond hout, fun hin hv => ?_, fun v hin hv => ?_⟩
  · exact readMemory_none hin (hm ▸ hv)
  · exact readMemory_some hin (hm ▸ hv)

end Sys2Proof.Machine
end

section
/-! The invariant (R14, R15, R17, R18, R96, R107): every update an operation or a host access is made of keeps it, so
every operation, every access and every step does. -/

namespace Sys2Proof.Machine

/-! ### The reset state -/

/-- In a build that meets R6, the block right after reset meets the invariant. -/
theorem consistent_resetWith {p : Params} (h : p.Wf) : Consistent (State.resetWith p) where
  params := h
  canonical := reset_memories_wf p
  inside := fun m c hc => by cases m <;> cases hc
  status := fun _ hv => by cases hv
  dclass := fun _ hv => by cases hv
  gram := .inl rfl
  flight := .inl rfl
  elen := fun _ hv => by cases hv

/-- Settles O6: the default parameters meet R6. -/
theorem resetMeetsInvariant : Obligations.ResetMeetsInvariant :=
  consistent_resetWith (p := .default) (by decide)

namespace Consistent

variable {s t : State}

/-! ### The updates the invariant does not see -/

theorem setOperands (hs : Consistent s) (v : OperandRegs) : Consistent (s.setOperands v) := { hs with }
theorem setCrc8Out (hs : Consistent s) (v : Option Byte) : Consistent (s.setCrc8Out v) := { hs with }
theorem setCrc16Out (hs : Consistent s) (v : Option Half) : Consistent (s.setCrc16Out v) := { hs with }
theorem setCls (hs : Consistent s) (v : Option (BitVec 1)) : Consistent (s.setCls v) := { hs with }
theorem setPending (hs : Consistent s) (v : List HostAction) : Consistent (s.setPending v) := { hs with }
theorem setHostRead (hs : Consistent s) (v : Option Half) : Consistent (s.setHostRead v) := { hs with }

/-! ### The updates it does see -/

theorem setStatus (hs : Consistent s) (x : Status) : Consistent (s.setStatus (some x.code)) :=
  { hs with status := fun _ hv => Option.some.inj hv ▸ status_code_le x }

theorem setDclass (hs : Consistent s) (c : MessageClass) : Consistent (s.setDclass (some (classCode c))) :=
  { hs with dclass := fun _ hv => Option.some.inj hv ▸ classCode_le c }

theorem setGram (hs : Consistent s) {g : GramRegs} (hg : g = .none ∨ g.Describes) : Consistent (s.setGram g) :=
  { hs with gram := hg }

theorem setFlight (hs : Consistent s) {f : FlightRegs}
    (hf : f = .none ∨ ∃ h b c, f = { height := some h, batt := some b, cam := some c }) : Consistent (s.setFlight f) :=
  { hs with flight := hf }

theorem setElen_none (hs : Consistent s) : Consistent (s.setElen none) := { hs with elen := fun _ hv => by cases hv }

/-- A length from 11 to the capacity of BUF fits ELEN (R6: the capacity is below 2^16). -/
theorem setElen (hs : Consistent s) {n : Nat} (h11 : fixedBytes ≤ n) (hn : n ≤ s.params.bufCap) :
    Consistent (s.setElen (some (BitVec.ofNat 16 n))) := by
  obtain ⟨-, hcap, -, -⟩ := hs.params
  have hnat : (BitVec.ofNat 16 n).toNat = n := by
    rw [BitVec.toNat_ofNat]
    omega
  refine { hs with elen := fun _ hv => ?_ }
  rw [← Option.some.inj hv, hnat]
  exact ⟨h11, hn⟩

/-- A store inside a memory keeps it canonical and inside its capacity (R17, R18). -/
theorem setMem (hs : Consistent s) {m : MemName} {a : Nat} {bs : List Byte}
    (hin : a + bs.length ≤ capacity s.params m) : Consistent (s.setMem m (Memory.writeBytes (s.mem m) a bs)) := by
  have hwf : Memory.wf (Memory.writeBytes (s.mem m) a bs) = true := Memory.writeBytes_wf (hs.canonical m) a bs
  have hcap : ∀ c ∈ Memory.writeBytes (s.mem m) a bs, c.1 < capacity s.params m := fun c hc => by
    rcases Memory.mem_writeBytes hc with hc | hc
    · exact hs.inside m c hc
    · omega
  cases m with
  | buf =>
    exact { hs with
      canonical := fun | .buf => hwf | .pay => hs.canonical .pay
      inside := fun | .buf => hcap | .pay => hs.inside .pay }
  | pay =>
    exact { hs with
      canonical := fun | .buf => hs.canonical .buf | .pay => hwf
      inside := fun | .buf => hs.inside .buf | .pay => hcap }

theorem setBuf (hs : Consistent s) {a : Nat} {bs : List Byte} (hin : a + bs.length ≤ s.params.bufCap) :
    Consistent (s.setBuf (Memory.writeBytes s.buf a bs)) :=
  hs.setMem (m := .buf) hin

theorem resetBlock (hs : Consistent s) : Consistent (resetBlock s) :=
  ((consistent_resetWith hs.params).setPending _).setHostRead _

end Consistent

/-- A gram whose size field stands for at least 11 bytes is described by its registers (R87). -/
theorem gramRegs_unpackGram_describes {b : List Byte}
    (h : fixedBytes ≤ gramLength b) : (gramRegs (unpackGram b)).Describes :=
  ⟨_, _, _, _, _, _, _, h, rfl⟩

/-- The bytes that DECODE unpacks begin with the size field it has read from BUF. -/
theorem gramLength_append_of_holds {m : Memory} {body tail : List Byte} {b1 b2 : Byte} (hh : Holds m 0 body)
    (hl : 3 ≤ body.length) (h1 : Memory.read m 1 = some b1) (h2 : Memory.read m 2 = some b2) :
    gramLength (body ++ tail) = (lengthOf (le16 b1 b2)).toNat := by
  have e1 : byteAt body 1 = b1 := Option.some.inj ((hh 1 (by omega)).symm.trans h1)
  have e2 : byteAt body 2 = b2 := Option.some.inj ((hh 2 (by omega)).symm.trans h2)
  rw [gramLength, byteAt_append_left (by omega), byteAt_append_left (by omega), e1, e2]

/-! ### The operations -/

namespace Consistent

variable {s t : State}

theorem execCrc8 (hs : Consistent s) (h : execCrc8 s = .next t) : Consistent t := by
  obtain ⟨_, _, -, -, ⟨-, rfl⟩ | ⟨_, -, -, -, rfl⟩⟩ := execCrc8_next h
  · exact (hs.setCrc8Out _).setStatus _
  · exact (hs.setCrc8Out _).setStatus _

theorem execCrc16 (hs : Consistent s) (h : execCrc16 s = .next t) : Consistent t := by
  obtain ⟨_, _, -, -, ⟨-, rfl⟩ | ⟨_, -, -, -, rfl⟩⟩ := execCrc16_next h
  · exact (hs.setCrc16Out _).setStatus _
  · exact (hs.setCrc16Out _).setStatus _

theorem execDecode (hs : Consistent s) (h : execDecode s = .next t) : Consistent t := by
  obtain ⟨_, -, -, -, rfl⟩ | ⟨n, b1, b2, body, lo, hi, -, -, h1, h2, -, h11, hl, hh, rfl⟩ := execDecode_next h
  · exact (hs.setGram (.inl rfl)).setStatus _
  · rw [fixedBytes] at h11
    have hlen := gramLength_append_of_holds (tail := [lo, hi]) hh (by omega) h1 h2
    exact (hs.setGram (.inr (gramRegs_unpackGram_describes (hlen ▸ h11)))).setStatus .ok

theorem execEncode (hs : Consistent s) (h : execEncode s = .next t) : Consistent t := by
  obtain ⟨kind, mid, seq, plen, -, -, -, -, ⟨-, rfl⟩ | ⟨p, -, hl, -, hin, rfl⟩⟩ := execEncode_next h
  · exact hs.setElen_none.setStatus _
  · have hfit : (encodeGram s.params.crc8 s.params.crc16 kind mid seq p).length ≤ s.params.bufCap := by
      rwa [encodeGram_length]
    rw [hl] at hin
    exact ((hs.setBuf (by rwa [Nat.zero_add])).setElen (Nat.le_add_right _ _) hin).setStatus .ok

theorem execClassify (hs : Consistent s) (h : execClassify s = .next t) : Consistent t := by
  obtain ⟨-, rfl⟩ | ⟨-, ⟨_, rfl⟩ | rfl⟩ := execClassify_next h
  · exact hs.setStatus _
  · exact (hs.setCls _).setStatus _
  · exact (hs.setCls _).setStatus _

theorem execHsreq (hs : Consistent s) (h : execHsreq s = .next t) : Consistent t := by
  obtain ⟨-, rfl⟩ | ⟨-, port, -, hcap, rfl⟩ := execHsreq_next h
  · exact hs.setStatus _
  · exact ((hs.setBuf (bs := handshakeRequest port) (by simpa using hcap)).setElen (n := 11) le_rfl hcap).setStatus .ok

theorem execDispatch (hs : Consistent s) (h : execDispatch s = .next t) : Consistent t := by
  obtain ⟨-, rfl⟩ | ⟨-, _, -, rfl⟩ := execDispatch_next h
  · exact hs.setStatus _
  · exact (hs.setDclass _).setStatus _

theorem execFlightdata (hs : Consistent s) (h : execFlightdata s = .next t) : Consistent t := by
  obtain ⟨-, rfl⟩ | ⟨-, ⟨_, -, -, rfl⟩ | ⟨v, b, c, rfl⟩⟩ := execFlightdata_next h
  · exact hs.setStatus _
  · exact (hs.setFlight (.inl rfl)).setStatus _
  · exact (hs.setFlight (.inr ⟨v, b, c, rfl⟩)).setStatus .ok

theorem execIllegal (hs : Consistent s) {code : Byte} (h : execIllegal code s = .next t) : Consistent t := by
  cases h
  exact hs.setStatus .illegalOp

theorem putRow (hs : Consistent s) {place : Nat} {row : Instr} (h : putRow place row s = .next t) : Consistent t := by
  obtain ⟨hin, rfl⟩ := putRow_next h
  exact hs.setBuf hin

/-- Every row of the table keeps the invariant. -/
theorem exec (hs : Consistent s) {i : Instr} (h : exec i s = .next t) : Consistent t := by
  cases i with
  | crc8 => exact hs.execCrc8 h
  | crc16 => exact hs.execCrc16 h
  | decode => exact hs.execDecode h
  | encode => exact hs.execEncode h
  | classify => exact hs.execClassify h
  | hsreq => exact hs.execHsreq h
  | dispatch => exact hs.execDispatch h
  | flightdata => exact hs.execFlightdata h
  | illegal code => exact hs.execIllegal (code := code) h
  | gramHeader | gramTodrone | gramKeepalive | msgConnectAckEcho | msgKeepalive | msgFlightData | hsConnReq | hsConnAck
  | flightDataPayload => exact hs.putRow h

/-! ### The host's accesses -/

theorem placeRow (hs : Consistent s) {bytes : List Byte} (h : placeRow bytes s = .next t) : Consistent t := by
  unfold Machine.placeRow at h
  split at h
  · exact hs.exec h
  · cases h

/-- Every access of the host keeps the invariant. -/
theorem hostAct (hs : Consistent s) {a : HostAction} (h : hostAct a s = .next t) : Consistent t := by
  cases a with
  | setStart | setCount | setRlen | setKind | setMid | setSeq | setPlen | setPort =>
    cases h
    exact hs.setOperands _
  | issue code => exact (hs.setOperands _).exec h
  | writeBytes m a bytes =>
    obtain ⟨hin, h⟩ := putBytes_next h
    cases h
    exact hs.setMem hin
  | place bytes => exact hs.placeRow h
  | readReg r =>
    obtain ⟨v, rfl⟩ := readRegister_next h
    exact hs.setHostRead v
  | readByte m i =>
    obtain ⟨v, rfl⟩ := readMemory_next h
    exact hs.setHostRead v
  | reset =>
    cases h
    exact hs.resetBlock

end Consistent

/-- Settles O7: a step is idle or one access of the host. -/
theorem stepKeepsInvariant : Obligations.StepKeepsInvariant := by
  unfold Obligations.StepKeepsInvariant
  intro s t hs h
  cases hp : s.pending with
  | nil =>
    rw [step_of_idle hp] at h
    cases h
    exact hs
  | cons a rest =>
    rw [step_of_pending hp] at h
    exact (hs.setPending rest).hostAct h

end Sys2Proof.Machine
end

section
/-! Bounds (R39, R141): an operation faults only through `withBytes` and `putBytes`, and the checks it makes before each
of them put the access inside the memory. -/

namespace Sys2Proof.Machine

/-- The outcome is no fault: no access was made to an index that does not exist. -/
def NoFault (o : Out) : Prop := ∀ f, o ≠ .fault f

theorem noFault_next (s : State) : NoFault (.next s) := fun _ h => by cases h

theorem noFault_endWith (g : OwnResults) (x : Status) (s : State) : NoFault (endWith g x s) := noFault_next _

theorem noFault_endOk (s : State) : NoFault (endOk s) := noFault_next _

theorem noFault_ite {c : Prop} [Decidable c] {o o' : Out} (h : c → NoFault o) (h' : ¬ c → NoFault o') :
    NoFault (if c then o else o') := by
  split
  · exact h ‹_›
  · exact h' ‹_›

theorem noFault_withReg {w : Nat} {r : Reg} {v : Option (BitVec w)} {k : BitVec w → Out} (h : ∀ x, NoFault (k x)) :
    NoFault (withReg r v k) := by
  cases v with
  | none => exact fun _ hf => by cases hf
  | some x => exact h x

/-- A read of a range inside the memory does not fault. -/
theorem noFault_withBytes {m : MemName} {a n : Nat} {s : State} {k : List Byte → Out}
    (hin : a + n ≤ capacity s.params m) (h : ∀ bs, bs.length = n → NoFault (k bs)) : NoFault (withBytes m a n s k) := by
  rw [withBytes, if_neg (Nat.not_lt.mpr hin)]
  split
  · exact h _ ((Memory.readBytes_ok_iff _ _ _ _).mp ‹_›).1
  · exact fun _ hf => by cases hf

/-- A read of a byte of BUF does not fault. -/
theorem noFault_withByte {i : Nat} {s : State} {k : Byte → Out} (hin : i < s.params.bufCap) (h : ∀ b, NoFault (k b)) :
    NoFault (withByte .buf i s k) :=
  noFault_withBytes (m := .buf) hin fun _ _ => h _

/-- A store inside BUF does not fault. -/
theorem noFault_putBytes {a : Nat} {bs : List Byte} {s : State} {k : State → Out}
    (hin : a + bs.length ≤ s.params.bufCap) (h : ∀ t, NoFault (k t)) : NoFault (putBytes .buf a bs s k) := by
  rw [putBytes_inside (m := .buf) k hin]
  exact h _

theorem noFault_needsAux {s : State} {k : Out} (h : NoFault k) : NoFault (needsAux s k) :=
  noFault_ite (fun _ => h) fun _ => noFault_endWith _ _ _

/-- Past the check of START and COUNT the range lies inside BUF. -/
theorem noFault_withRange {g : OwnResults} {s : State} {k : Nat → Nat → Out}
    (h : ∀ a n, a + n ≤ s.params.bufCap → NoFault (k a n)) : NoFault (withRange g s k) :=
  noFault_withReg fun _ => noFault_withReg fun _ =>
    noFault_ite (fun _ => noFault_endWith _ _ _) fun hin => h _ _ (Nat.le_of_not_lt hin)

/-- Past the check of RLEN the received bytes lie inside BUF. -/
theorem noFault_withReceived {g : OwnResults} {s : State} {k : Nat → Out}
    (h : ∀ n ≤ s.params.bufCap, NoFault (k n)) : NoFault (withReceived g s k) :=
  noFault_withReg fun _ => noFault_ite (fun _ => noFault_endWith _ _ _) fun hin => h _ (Nat.le_of_not_lt hin)

/-! ### The operations -/

theorem noFault_execCrc8 (s : State) : NoFault (execCrc8 s) :=
  noFault_withRange fun _ _ hin => noFault_withBytes (m := .buf) hin fun _ _ => noFault_endOk _

theorem noFault_execCrc16 (s : State) : NoFault (execCrc16 s) :=
  noFault_withRange fun _ _ hin => noFault_withBytes (m := .buf) hin fun _ _ => noFault_endOk _

theorem noFault_decodeChecked {len : Nat} {s : State} (h11 : 11 ≤ len) (hlen : len ≤ s.params.bufCap) :
    NoFault (decodeChecked len s) := by
  refine noFault_withBytes (m := .buf) (show 0 + 3 ≤ s.params.bufCap by omega) fun short _ => ?_
  refine noFault_withByte (by omega) fun c8 => ?_
  refine noFault_ite (fun _ => noFault_endWith _ _ _) fun _ => ?_
  refine noFault_withBytes (m := .buf) (show 0 + (len - 2) ≤ s.params.bufCap by omega) fun body _ => ?_
  refine noFault_withByte (by omega) fun lo => noFault_withByte (by omega) fun hi => ?_
  exact noFault_ite (fun _ => noFault_endWith _ _ _) fun _ => noFault_endOk _

theorem noFault_execDecode (s : State) : NoFault (execDecode s) := by
  refine noFault_withReceived fun n hn => ?_
  refine noFault_ite (fun _ => noFault_endWith _ _ _) fun h11 : ¬ n < 11 => ?_
  refine noFault_withByte (by omega) fun lo => noFault_withByte (by omega) fun hi => ?_
  refine noFault_ite (fun _ => noFault_endWith _ _ _) fun hsane => ?_
  rw [fixedBytes] at hsane
  exact noFault_decodeChecked (by omega) (by omega)

/-- The gram ENCODE builds fits BUF because MAX_PAYLOAD and the 11 fixed bytes do (R6). -/
theorem noFault_execEncode {s : State} (h : s.params.Wf) : NoFault (execEncode s) := by
  obtain ⟨-, -, hfit, -⟩ := h
  refine noFault_withReg fun kind => noFault_withReg fun mid => noFault_withReg fun seq => noFault_withReg fun plen => ?_
  refine noFault_ite (fun _ => noFault_endWith _ _ _) fun hplen => ?_
  refine noFault_withBytes (m := .pay) (show 0 + plen.toNat ≤ s.params.maxPayload by omega) fun p hp => ?_
  refine noFault_putBytes ?_ fun t => noFault_endOk _
  rw [encodeGram_length, hp, fixedBytes]
  omega

theorem noFault_execClassify (s : State) : NoFault (execClassify s) := by
  refine noFault_needsAux (noFault_withReceived fun n hn => ?_)
  refine noFault_ite (fun _ => noFault_endOk _) fun h9 => ?_
  exact noFault_withBytes (m := .buf) (show 0 + prefixLength ≤ s.params.bufCap by omega) fun _ _ => noFault_endOk _

theorem noFault_execHsreq {s : State} (h : s.params.Wf) : NoFault (execHsreq s) := by
  obtain ⟨h11, -, -, -⟩ := h
  exact noFault_needsAux <| noFault_withReg fun port => noFault_putBytes (by simpa using h11) fun t => noFault_endOk _

theorem noFault_execDispatch (s : State) : NoFault (execDispatch s) :=
  noFault_needsAux (noFault_withReg fun _ => noFault_endOk _)

theorem noFault_execFlightdata (s : State) : NoFault (execFlightdata s) := by
  refine noFault_needsAux (noFault_withRange fun start count hin => ?_)
  refine noFault_ite (fun _ => noFault_endWith _ _ _) fun hcount : ¬ count ≠ 24 => ?_
  refine noFault_withByte (by omega) fun lo => noFault_withByte (by omega) fun hi => ?_
  exact noFault_withByte (by omega) fun batt => noFault_withByte (by omega) fun cam => noFault_endOk _

/-- Settles O18: every code selects one of the operations above or the illegal row. -/
theorem operationsStayInBounds : Obligations.OperationsStayInBounds := by
  unfold Obligations.OperationsStayInBounds
  intro code s f hp
  exact decodeOp_cases (P := fun i => NoFault (exec i s)) (noFault_execCrc8 s) (noFault_execCrc16 s) (noFault_execDecode s)
    (noFault_execEncode hp) (noFault_execClassify s) (noFault_execHsreq hp) (noFault_execDispatch s)
    (noFault_execFlightdata s) (fun _ => noFault_endWith _ _ _) code f

end Sys2Proof.Machine
end

section
/-! The frame of every row (R24): which fields of the state a row leaves alone, one lemma per update a row is made of,
and the STATUS every issue ends with (R15). -/

namespace Sys2Proof.Machine

/-- What row `i` leaves alone on its way from `s` to `t` (R24). -/
structure Frame (i : Instr) (s t : State) : Prop where
  reg : ∀ r : Reg, r ∉ registersWritten i → t.reg r = s.reg r
  buf : storesToBuf i = false → t.buf = s.buf
  operands : t.operands = s.operands
  pay : t.pay = s.pay
  params : t.params = s.params
  pending : t.pending = s.pending
  hostRead : t.hostRead = s.hostRead

/-- An issue ends by setting STATUS to a code of R15 in a state that its operation has left within its frame. -/
def EndsWithStatus (i : Instr) (s t : State) : Prop :=
  ∃ (u : State) (x : Status), Frame i s u ∧ t = u.setStatus (some x.code)

namespace Frame

variable {i : Instr} {s t : State}

theorem refl (i : Instr) (s : State) : Frame i s s :=
  { reg := fun _ _ => rfl, buf := fun _ => rfl, operands := rfl, pay := rfl, params := rfl, pending := rfl,
    hostRead := rfl }

/-! ### The updates of an operation -/

theorem setStatus (h : Frame i s t) (hw : .status ∈ registersWritten i) (v : Option Byte) :
    Frame i s (t.setStatus v) :=
  { h with reg := fun r hr => (State.setStatus_reg t v (ne_of_mem_of_not_mem hw hr).symm).trans (h.reg r hr) }

theorem setCrc8Out (h : Frame i s t) (hw : .crc8Out ∈ registersWritten i) (v : Option Byte) :
    Frame i s (t.setCrc8Out v) :=
  { h with reg := fun r hr => (State.setCrc8Out_reg t v (ne_of_mem_of_not_mem hw hr).symm).trans (h.reg r hr) }

theorem setCrc16Out (h : Frame i s t) (hw : .crc16Out ∈ registersWritten i) (v : Option Half) :
    Frame i s (t.setCrc16Out v) :=
  { h with reg := fun r hr => (State.setCrc16Out_reg t v (ne_of_mem_of_not_mem hw hr).symm).trans (h.reg r hr) }

theorem setElen (h : Frame i s t) (hw : .elen ∈ registersWritten i) (v : Option Half) : Frame i s (t.setElen v) :=
  { h with reg := fun r hr => (State.setElen_reg t v (ne_of_mem_of_not_mem hw hr).symm).trans (h.reg r hr) }

theorem setCls (h : Frame i s t) (hw : .cls ∈ registersWritten i) (v : Option (BitVec 1)) :
    Frame i s (t.setCls v) :=
  { h with reg := fun r hr => (State.setCls_reg t v (ne_of_mem_of_not_mem hw hr).symm).trans (h.reg r hr) }

theorem setDclass (h : Frame i s t) (hw : .dclass ∈ registersWritten i) (v : Option (BitVec 2)) :
    Frame i s (t.setDclass v) :=
  { h with reg := fun r hr => (State.setDclass_reg t v (ne_of_mem_of_not_mem hw hr).symm).trans (h.reg r hr) }

theorem setGram (h : Frame .decode s t) (v : GramRegs) : Frame .decode s (t.setGram v) :=
  { h with reg := fun r hr => (State.setGram_reg t v (List.not_mem_of_not_mem_cons hr)).trans (h.reg r hr) }

theorem setFlight (h : Frame .flightdata s t) (v : FlightRegs) : Frame .flightdata s (t.setFlight v) :=
  { h with reg := fun r hr => (State.setFlight_reg t v (List.not_mem_of_not_mem_cons hr)).trans (h.reg r hr) }

theorem setBuf (h : Frame i s t) (hb : storesToBuf i = true) (v : Memory) : Frame i s (t.setBuf v) :=
  { h with
    reg := fun r hr => (State.setBuf_reg t v r).trans (h.reg r hr)
    buf := fun hn => absurd (hb.symm.trans hn) Bool.noConfusion }

theorem endsWithStatus (h : Frame i s t) (x : Status) : EndsWithStatus i s (t.setStatus (some x.code)) :=
  ⟨t, x, h, rfl⟩

end Frame

/-! ### The operations -/

section

variable {s t : State}

theorem execCrc8_ends (h : execCrc8 s = .next t) : EndsWithStatus .crc8 s t := by
  obtain ⟨_, _, -, -, ⟨-, rfl⟩ | ⟨_, -, -, -, rfl⟩⟩ := execCrc8_next h
  · exact ((Frame.refl _ s).setCrc8Out (by decide) _).endsWithStatus _
  · exact ((Frame.refl _ s).setCrc8Out (by decide) _).endsWithStatus _

theorem execCrc16_ends (h : execCrc16 s = .next t) : EndsWithStatus .crc16 s t := by
  obtain ⟨_, _, -, -, ⟨-, rfl⟩ | ⟨_, -, -, -, rfl⟩⟩ := execCrc16_next h
  · exact ((Frame.refl _ s).setCrc16Out (by decide) _).endsWithStatus _
  · exact ((Frame.refl _ s).setCrc16Out (by decide) _).endsWithStatus _

theorem execDecode_ends (h : execDecode s = .next t) : EndsWithStatus .decode s t := by
  obtain ⟨_, -, -, -, rfl⟩ | ⟨_, _, _, _, _, _, -, -, -, -, -, -, -, -, rfl⟩ := execDecode_next h
  · exact ((Frame.refl _ s).setGram _).endsWithStatus _
  · exact ((Frame.refl _ s).setGram _).endsWithStatus _

theorem execEncode_ends (h : execEncode s = .next t) : EndsWithStatus .encode s t := by
  obtain ⟨_, _, _, _, -, -, -, -, ⟨-, rfl⟩ | ⟨_, -, -, -, -, rfl⟩⟩ := execEncode_next h
  · exact ((Frame.refl _ s).setElen (by decide) _).endsWithStatus _
  · exact (((Frame.refl _ s).setBuf rfl _).setElen (by decide) _).endsWithStatus _

theorem execClassify_ends (h : execClassify s = .next t) : EndsWithStatus .classify s t := by
  obtain ⟨-, rfl⟩ | ⟨-, ⟨_, rfl⟩ | rfl⟩ := execClassify_next h
  · exact (Frame.refl _ s).endsWithStatus _
  · exact ((Frame.refl _ s).setCls (by decide) _).endsWithStatus _
  · exact ((Frame.refl _ s).setCls (by decide) _).endsWithStatus _

theorem execHsreq_ends (h : execHsreq s = .next t) : EndsWithStatus .hsreq s t := by
  obtain ⟨-, rfl⟩ | ⟨-, _, -, -, rfl⟩ := execHsreq_next h
  · exact (Frame.refl _ s).endsWithStatus _
  · exact (((Frame.refl _ s).setBuf rfl _).setElen (by decide) _).endsWithStatus _

theorem execDispatch_ends (h : execDispatch s = .next t) : EndsWithStatus .dispatch s t := by
  obtain ⟨-, rfl⟩ | ⟨-, _, -, rfl⟩ := execDispatch_next h
  · exact (Frame.refl _ s).endsWithStatus _
  · exact ((Frame.refl _ s).setDclass (by decide) _).endsWithStatus _

theorem execFlightdata_ends (h : execFlightdata s = .next t) : EndsWithStatus .flightdata s t := by
  obtain ⟨-, rfl⟩ | ⟨-, ⟨_, -, -, rfl⟩ | ⟨_, _, _, rfl⟩⟩ := execFlightdata_next h
  · exact (Frame.refl _ s).endsWithStatus _
  · exact ((Frame.refl _ s).setFlight _).endsWithStatus _
  · exact ((Frame.refl _ s).setFlight _).endsWithStatus _

theorem execIllegal_ends {code : Byte} (h : execIllegal code s = .next t) : EndsWithStatus (.illegal code) s t := by
  cases h
  exact (Frame.refl _ s).endsWithStatus .illegalOp

/-- Every operation of the operation select code sets STATUS at its end. -/
theorem issue_ends {code : Byte} : exec (decodeOp code) s = .next t → EndsWithStatus (decodeOp code) s t :=
  decodeOp_cases (P := fun i => exec i s = .next t → EndsWithStatus i s t) execCrc8_ends execCrc16_ends execDecode_ends
    execEncode_ends execClassify_ends execHsreq_ends execDispatch_ends execFlightdata_ends (fun _ => execIllegal_ends) code

/-! ### Every row -/

theorem EndsWithStatus.frame {i : Instr} (h : EndsWithStatus i s t) (hw : .status ∈ registersWritten i) :
    Frame i s t := by
  obtain ⟨u, x, hu, rfl⟩ := h
  exact hu.setStatus hw _

/-- A wire-format row changes BUF alone. -/
theorem putRow_frame {place : Nat} {row : Instr} (hb : storesToBuf row = true) (h : putRow place row s = .next t) :
    Frame row s t := by
  obtain ⟨-, rfl⟩ := putRow_next h
  exact (Frame.refl row s).setBuf hb _

/-- Every row of the table stays within its frame. -/
theorem exec_frame {i : Instr} (h : exec i s = .next t) : Frame i s t := by
  cases i with
  | crc8 => exact (execCrc8_ends h).frame (by decide)
  | crc16 => exact (execCrc16_ends h).frame (by decide)
  | decode => exact (execDecode_ends h).frame (by decide)
  | encode => exact (execEncode_ends h).frame (by decide)
  | classify => exact (execClassify_ends h).frame (by decide)
  | hsreq => exact (execHsreq_ends h).frame (by decide)
  | dispatch => exact (execDispatch_ends h).frame (by decide)
  | flightdata => exact (execFlightdata_ends h).frame (by decide)
  | illegal code => exact (execIllegal_ends (code := code) h).frame (List.mem_singleton_self _)
  | gramHeader | gramTodrone | gramKeepalive | msgConnectAckEcho | msgKeepalive | msgFlightData | hsConnReq | hsConnAck
  | flightDataPayload => exact putRow_frame rfl h

end

/-- Settles O19: the frame of every row. -/
theorem registersOutsideWriteSetKept : Obligations.RegistersOutsideWriteSetKept := by
  unfold Obligations.RegistersOutsideWriteSetKept
  intro i s t h
  have hf := exec_frame h
  exact ⟨hf.reg, hf.operands, hf.pay, hf.params, hf.pending, hf.hostRead⟩

/-- Settles O20: BUF and PAY themselves are the memories of before. -/
theorem readingOperationsKeepBuf : Obligations.ReadingOperationsKeepBuf := by
  unfold Obligations.ReadingOperationsKeepBuf
  intro i s t hb h m a
  have hf := exec_frame h
  cases m with
  | buf => rw [mem_buf, mem_buf, hf.buf hb]
  | pay => rw [mem_pay, mem_pay, hf.pay]

/-- Settles O21: an operation ends by setting STATUS to the code of a status. -/
theorem issueOverwritesStatus : Obligations.IssueOverwritesStatus := by
  unfold Obligations.IssueOverwritesStatus
  intro code s t h
  obtain ⟨u, x, -, rfl⟩ := issue_ends h
  exact ⟨x.code, rfl, status_code_le x⟩

end Sys2Proof.Machine
end

section
/-! Reset, the host's accesses and the step (R15, R16, R23, R25, R40, R165): what each access of the host does, and what
every access leaves alone. -/

namespace Sys2Proof.Machine

/-! ### Reset -/

theorem resetWith_reg (p : Params) (r : Reg) : (State.resetWith p).reg r = none := by cases r <;> rfl

theorem resetWith_mem (p : Params) (m : MemName) : (State.resetWith p).mem m = [] := by cases m <;> rfl

/-- Reset leaves `none` in every register, whatever they held. -/
theorem resetBlock_reg (s : State) (r : Reg) : (resetBlock s).reg r = none := by
  rw [resetBlock, State.setHostRead_reg, State.setPending_reg, resetWith_reg]

/-- Reset leaves both memories without a byte that holds a value. -/
theorem resetBlock_mem (s : State) (m : MemName) : (resetBlock s).mem m = [] := by cases m <;> rfl

/-- Settles O5: the reset state lists no byte and no register value. -/
theorem resetHoldsNoValue : Obligations.ResetHoldsNoValue := by
  unfold Obligations.ResetHoldsNoValue State.reset
  refine ⟨resetWith_reg _, fun m i => ?_⟩
  rw [resetWith_mem, Memory.read_nil]

/-- Settles O15: the step is `resetBlock`. -/
theorem hostResetClearsEverything : Obligations.HostResetClearsEverything := by
  unfold Obligations.HostResetClearsEverything
  intro s rest hp
  refine ⟨resetBlock (s.setPending rest), step_of_pending hp, resetBlock_reg _, fun m i => ?_, rfl, rfl⟩
  rw [resetBlock_mem, Memory.read_nil]

/-! ### The accesses -/

/-- Settles O11: each of the eight accesses is one update of the operand registers. -/
theorem hostWritesOneOperand : Obligations.HostWritesOneOperand := by
  unfold Obligations.HostWritesOneOperand
  intro s rest v k
  exact ⟨step_of_pending, step_of_pending, step_of_pending, step_of_pending, step_of_pending, step_of_pending,
    step_of_pending, step_of_pending⟩

/-- Settles O13: the three cases of `withRead`. -/
theorem hostReadsARegister : Obligations.HostReadsARegister := by
  unfold Obligations.HostReadsARegister
  intro s rest r hp
  rw [step_of_pending hp, ← State.setPending_reg s rest r]
  refine ⟨fun hr => ?_, fun hr hv => ?_, fun v hr hv => ?_⟩
  · subst hr
    exact withRead_op (s.setPending rest) fun _ t => .next t
  · exact withRead_none _ hr hv
  · exact withRead_some _ hr hv

/-- One byte is an operation select code (R66). -/
theorem decode_one_byte (code : Byte) : decode [code] = .ok (decodeOp code) := rfl

/-- Anything but one byte is read as a wire format (log 14). -/
theorem decode_of_length_ne_one {b : List Byte} (h : b.length ≠ 1) : decode b = decodeMessage b := if_neg h

/-- Placed bytes of a row are run as that row. -/
theorem placeRow_of_ok {bytes : List Byte} {i : Instr} (s : State) (h : decodeMessage bytes = .ok i) :
    placeRow bytes s = exec i s := by simp only [placeRow, h]

/-- Placed bytes that are no row are refused. -/
theorem placeRow_of_error {bytes : List Byte} {e : DecodeError} (s : State) (h : decodeMessage bytes = .error e) :
    placeRow bytes s = .refused (.noSuchRow e) := by simp only [placeRow, h]

/-- If placed bytes go on to a next state, they are a row's, and the row was run. -/
theorem placeRow_next {bytes : List Byte} {s t : State} (h : placeRow bytes s = .next t) :
    ∃ i, decodeMessage bytes = .ok i ∧ exec i s = .next t := by
  cases hd : decodeMessage bytes with
  | ok i => exact ⟨i, rfl, placeRow_of_ok s hd ▸ h⟩
  | error e =>
    rw [placeRow_of_error s hd] at h
    cases h

/-- Settles O9: an issue of a code, and the two cases of `placeRow`. -/
theorem stepRunsTheDecodedRow : Obligations.StepRunsTheDecodedRow := by
  unfold Obligations.StepRunsTheDecodedRow
  refine ⟨fun s code rest i hp hi => ?_, fun s bytes rest i hp hl hi => ?_, fun s bytes rest e hp he => ?_⟩
  · cases (decode_one_byte code).symm.trans hi
    exact step_of_pending hp
  · rw [decode_of_length_ne_one hl] at hi
    exact (step_of_pending hp).trans (placeRow_of_ok _ hi)
  · exact (step_of_pending hp).trans (placeRow_of_error _ he)

/-! ### What every access leaves alone -/

/-- No access of the host changes the build or the accesses still to come. -/
theorem hostAct_keeps {a : HostAction} {s t : State} (h : hostAct a s = .next t) :
    t.params = s.params ∧ t.pending = s.pending := by
  cases a with
  | setStart | setCount | setRlen | setKind | setMid | setSeq | setPlen | setPort | reset =>
    cases h
    exact ⟨rfl, rfl⟩
  | issue code =>
    have hf := exec_frame h
    exact ⟨hf.params, hf.pending⟩
  | writeBytes m a bytes =>
    obtain ⟨-, h⟩ := putBytes_next h
    cases h
    cases m <;> exact ⟨rfl, rfl⟩
  | place bytes =>
    obtain ⟨i, -, h⟩ := placeRow_next h
    have hf := exec_frame h
    exact ⟨hf.params, hf.pending⟩
  | readReg r =>
    obtain ⟨_, rfl⟩ := readRegister_next h
    exact ⟨rfl, rfl⟩
  | readByte m i =>
    obtain ⟨_, rfl⟩ := readMemory_next h
    exact ⟨rfl, rfl⟩

/-- Settles O8: a step is idle or takes the first access, and the access changes neither. -/
theorem stepKeepsBuildAndOrder : Obligations.StepKeepsBuildAndOrder := by
  unfold Obligations.StepKeepsBuildAndOrder
  intro s t h
  cases hp : s.pending with
  | nil =>
    rw [step_of_idle hp] at h
    cases h
    exact ⟨rfl, hp⟩
  | cons a rest =>
    rw [step_of_pending hp] at h
    exact hostAct_keeps h

end Sys2Proof.Machine
end

section
/-! What an issue needs (R16, R25): a row is refused exactly for an operand register or a byte it reads that holds `none`,
and with all of them valued it answers. -/

namespace Sys2Proof.Machine

/-- The bytes of a held sequence hold values. -/
theorem Holds.read_ne_none {m : Memory} {a j : Nat} {bs : List Byte} (h : Holds m a bs) (h1 : a ≤ j)
    (h2 : j < a + bs.length) : Memory.read m j ≠ none := by
  have hv := h (j - a) (by omega)
  rw [show a + (j - a) = j by omega] at hv
  rw [hv]
  exact Option.some_ne_none _

/-- Every operand register of the row holds a value, and every byte that it reads in this state does (R25). -/
def InputsValued (i : Instr) (s : State) : Prop :=
  OperandsValued i s ∧ ∀ (m : MemName) (a : Nat), ReadsByte i s m a → Memory.read (s.mem m) a ≠ none

/-- The outcome of row `i` in `s` accounts for what is missing (R16, R25): a refusal names an operand register that holds
`none` or, when these hold values, a byte read that holds `none`; any other outcome is given only when nothing is missing. -/
inductive RefusesMissing (i : Instr) (s : State) : Out → Prop
  | register {r : Reg} (hr : r ∈ operandsRead i) (hv : s.reg r = none) : RefusesMissing i s (.refused (.noRegisterValue r))
  | byte {m : MemName} {a : Nat} (ho : OperandsValued i s) (hr : ReadsByte i s m a)
      (hv : Memory.read (s.mem m) a = none) : RefusesMissing i s (.refused (.noByteValue m a))
  | answer {o : Out} (hi : InputsValued i s) (ho : ∀ r, o ≠ .refused r) : RefusesMissing i s o

/-! ### The parts of an operation -/

section

variable {i : Instr} {s : State}

theorem InputsValued.of_reads_nothing (ho : OperandsValued i s) (h : ∀ m a, ¬ ReadsByte i s m a) : InputsValued i s :=
  ⟨ho, fun m a hr => absurd hr (h m a)⟩

theorem refusesMissing_next (hi : InputsValued i s) (t : State) : RefusesMissing i s (.next t) :=
  .answer hi fun _ h => by cases h

/-- A store reads nothing. -/
theorem refusesMissing_putBytes {m : MemName} {a : Nat} {bs : List Byte} {k : State → Out} (hi : InputsValued i s)
    (h : ∀ t, RefusesMissing i s (k t)) : RefusesMissing i s (putBytes m a bs s k) := by
  unfold putBytes
  split
  · exact .answer hi fun _ h => by cases h
  · exact h _

theorem refusesMissing_ite {c : Prop} [Decidable c] {o o' : Out} (h : c → RefusesMissing i s o)
    (h' : ¬ c → RefusesMissing i s o') : RefusesMissing i s (if c then o else o') := by
  split
  · exact h ‹_›
  · exact h' ‹_›

theorem refusesMissing_withReg {w : Nat} {r : Reg} {v : Option (BitVec w)} {k : BitVec w → Out}
    (hr : r ∈ operandsRead i) (hv : v = none → s.reg r = none) (h : ∀ x, v = some x → RefusesMissing i s (k x)) :
    RefusesMissing i s (withReg r v k) := by
  cases v with
  | none => exact .register hr (hv rfl)
  | some x => exact h x rfl

theorem refusesMissing_withBytes {m : MemName} {a n : Nat} {k : List Byte → Out} (ho : OperandsValued i s)
    (hin : a + n ≤ capacity s.params m) (hr : ∀ j, a ≤ j → j < a + n → ReadsByte i s m j)
    (h : ∀ bs, bs.length = n → Holds (s.mem m) a bs → RefusesMissing i s (k bs)) :
    RefusesMissing i s (withBytes m a n s k) := by
  rw [withBytes, if_neg (Nat.not_lt.mpr hin)]
  split
  · rename_i bs hbs
    obtain ⟨hl, hh⟩ := (Memory.readBytes_ok_iff _ _ _ _).mp hbs
    exact h bs hl hh
  · rename_i j hj
    obtain ⟨h1, h2, hv⟩ := Memory.readBytes_error hj
    exact .byte ho (hr j h1 h2) hv

theorem refusesMissing_withByte {m : MemName} {j : Nat} {k : Byte → Out} (ho : OperandsValued i s)
    (hin : j < capacity s.params m) (hr : ReadsByte i s m j)
    (h : ∀ b, Memory.read (s.mem m) j = some b → RefusesMissing i s (k b)) :
    RefusesMissing i s (withByte m j s k) := by
  refine refusesMissing_withBytes ho hin (fun j' h1 h2 => (show j = j' by omega) ▸ hr) fun bs hl hh => ?_
  match bs, hl with
  | [b], _ => exact h b hh.head

/-- START and COUNT: past the check the range lies inside BUF; a range that leaves BUF reads no byte. -/
theorem refusesMissing_withRange {g : OwnResults} {k : Nat → Nat → Out} (hi : operandsRead i = [.start, .count])
    (hbeyond : ∀ a n, s.operands.start = some a → s.operands.count = some n → s.params.bufCap < a.toNat + n.toNat →
      ∀ m j, ¬ ReadsByte i s m j)
    (h : ∀ a n, s.operands.start = some a → s.operands.count = some n → OperandsValued i s →
      a.toNat + n.toNat ≤ s.params.bufCap → RefusesMissing i s (k a.toNat n.toNat)) :
    RefusesMissing i s (withRange g s k) := by
  refine refusesMissing_withReg (by simp [hi]) id fun a ha => refusesMissing_withReg (by simp [hi]) id fun n hn => ?_
  have ho : OperandsValued i s := by simp [OperandsValued, hi, State.reg, ha, hn]
  exact refusesMissing_ite (fun hout => refusesMissing_next (.of_reads_nothing ho (hbeyond a n ha hn hout)) _)
    fun hin => h a n ha hn ho (Nat.le_of_not_lt hin)

/-- RLEN: past the check the received bytes lie inside BUF; a length beyond BUF reads no byte. -/
theorem refusesMissing_withReceived {g : OwnResults} {k : Nat → Out} (hi : operandsRead i = [.rlen])
    (hbeyond : ∀ n, s.operands.rlen = some n → s.params.bufCap < n.toNat → ∀ m j, ¬ ReadsByte i s m j)
    (h : ∀ n, s.operands.rlen = some n → OperandsValued i s → n.toNat ≤ s.params.bufCap →
      RefusesMissing i s (k n.toNat)) :
    RefusesMissing i s (withReceived g s k) := by
  refine refusesMissing_withReg (by simp [hi]) id fun n hn => ?_
  have ho : OperandsValued i s := by simp [OperandsValued, hi, State.reg, hn]
  exact refusesMissing_ite (fun hout => refusesMissing_next (.of_reads_nothing ho (hbeyond n hn hout)) _)
    fun hin => h n hn ho (Nat.le_of_not_lt hin)

end

/-! ### The bytes an operation reads, once its operands are known -/

section

variable {s : State}

theorem inRange_iff {a n : Half} (ha : s.operands.start = some a) (hn : s.operands.count = some n) (m : MemName)
    (j : Nat) : InRange s m j ↔
      a.toNat + n.toNat ≤ s.params.bufCap ∧ m = .buf ∧ a.toNat ≤ j ∧ j < a.toNat + n.toNat := by
  simp [InRange, ha, hn]

theorem readsByte_classify_iff {n : Half} (hn : s.operands.rlen = some n) (m : MemName) (j : Nat) :
    ReadsByte .classify s m j ↔ m = .buf ∧ 9 ≤ n.toNat ∧ n.toNat ≤ s.params.bufCap ∧ j < 9 := by
  simp [ReadsByte, hn]

theorem readsByte_encode_iff {n : Half} (hn : s.operands.plen = some n) (m : MemName) (j : Nat) :
    ReadsByte .encode s m j ↔ m = .pay ∧ n.toNat ≤ s.params.maxPayload ∧ j < n.toNat := by
  simp [ReadsByte, hn]

theorem readsByte_flightdata_iff {a n : Half} (ha : s.operands.start = some a) (hn : s.operands.count = some n)
    (m : MemName) (j : Nat) : ReadsByte .flightdata s m j ↔ m = .buf ∧ n = 24 ∧ a.toNat + 24 ≤ s.params.bufCap ∧
      (j = a.toNat ∨ j = a.toNat + 1 ∨ j = a.toNat + 12 ∨ j = a.toNat + 20) := by
  simp [ReadsByte, ha, hn]

/-- The bytes DECODE reads once RLEN has passed its checks and the size field is read. -/
theorem decodeReads_iff {n : Half} {lo hi : Byte} (hn : s.operands.rlen = some n) (h11 : 11 ≤ n.toNat)
    (hcap : n.toNat ≤ s.params.bufCap) (hlo : Memory.read s.buf 1 = some lo) (hhi : Memory.read s.buf 2 = some hi)
    (j : Nat) : DecodeReads s j ↔ j = 1 ∨ j = 2 ∨
      (11 ≤ (lengthOf (le16 lo hi)).toNat ∧ (lengthOf (le16 lo hi)).toNat ≤ n.toNat ∧
        (j < 4 ∨ (j < (lengthOf (le16 lo hi)).toNat ∧
          ∃ b0 c8, Memory.read s.buf 0 = some b0 ∧ Memory.read s.buf 3 = some c8 ∧ s.params.crc8 [b0, lo, hi] = c8))) := by
  simp [DecodeReads, hn, h11, hcap, hlo, hhi, lengthOf_toNat]

/-- With a wrong 8-bit checksum DECODE reads nothing past it. -/
theorem decodeReads_lt_four {b0 lo hi c8 : Byte} (h0 : Memory.read s.buf 0 = some b0) (hlo : Memory.read s.buf 1 = some lo)
    (hhi : Memory.read s.buf 2 = some hi) (h3 : Memory.read s.buf 3 = some c8) (hbad : s.params.crc8 [b0, lo, hi] ≠ c8)
    {j : Nat} (h : DecodeReads s j) : j < 4 := by
  have ⟨n, hn, h11, hcap, _⟩ := h
  obtain rfl | rfl | ⟨-, -, hj | ⟨-, b, c, hb, hc, he⟩⟩ := (decodeReads_iff hn h11 hcap hlo hhi j).mp h
  · decide
  · decide
  · exact hj
  · cases h0.symm.trans hb
    cases h3.symm.trans hc
    exact absurd he hbad

/-- A row reads no byte outside the memory it is in. -/
theorem readsByte_inside {i : Instr} {m : MemName} {a : Nat} (h : ReadsByte i s m a) : a < capacity s.params m := by
  cases i with
  | crc8 | crc16 =>
    obtain ⟨start, count, -, -, hcap, rfl, -, ha⟩ := h
    exact Nat.lt_of_lt_of_le ha hcap
  | decode =>
    obtain ⟨rfl, n, -, h11, hcap, hd⟩ := h
    rw [capacity_buf]
    obtain rfl | rfl | ⟨lo, hi, -, -, -, hlen, ha | ⟨ha, -⟩⟩ := hd <;> omega
  | encode =>
    obtain ⟨rfl, plen, -, hcap, ha⟩ := h
    exact Nat.lt_of_lt_of_le ha hcap
  | classify =>
    obtain ⟨rfl, n, -, h9, hcap, ha⟩ := h
    exact Nat.lt_of_lt_of_le ha (h9.trans hcap)
  | flightdata =>
    obtain ⟨rfl, start, -, -, hcap, ha⟩ := h
    rw [capacity_buf]
    omega
  | hsreq | dispatch | illegal | gramHeader | gramTodrone | gramKeepalive | msgConnectAckEcho | msgKeepalive
  | msgFlightData | hsConnReq | hsConnAck | flightDataPayload => exact h.elim

/-! ### The operations -/

/-- CRC8 and CRC16 read the range of START and COUNT and nothing else. -/
theorem refusesMissing_rangeRead {i : Instr} {g : OwnResults} {u : List Byte → State}
    (hi : operandsRead i = [.start, .count]) (hr : ∀ m j, ReadsByte i s m j ↔ InRange s m j) :
    RefusesMissing i s (withRange g s fun a n => withBytes .buf a n s fun bs => endOk (u bs)) := by
  refine refusesMissing_withRange hi (fun a n ha hn hout m j h => ?_) fun a n ha hn ho hin => ?_
  · rw [hr, inRange_iff ha hn] at h
    omega
  · simp only [inRange_iff ha hn] at hr
    refine refusesMissing_withBytes ho hin (fun j h1 h2 => (hr _ _).mpr ⟨hin, rfl, h1, h2⟩) fun bs hl hh => ?_
    refine refusesMissing_next ⟨ho, fun m j h => ?_⟩ _
    obtain ⟨-, rfl, h1, h2⟩ := (hr m j).mp h
    exact hh.read_ne_none h1 (by omega)

theorem refusesMissing_execCrc8 (s : State) : RefusesMissing .crc8 s (execCrc8 s) :=
  refusesMissing_rangeRead rfl fun _ _ => Iff.rfl

theorem refusesMissing_execCrc16 (s : State) : RefusesMissing .crc16 s (execCrc16 s) :=
  refusesMissing_rangeRead rfl fun _ _ => Iff.rfl

/-- DECODE once the total length is sane: offsets 0 to 3 are read, and the rest of the gram when the 8-bit checksum is
right. -/
theorem refusesMissing_decodeChecked {n : Half} {lo hi : Byte} (hn : s.operands.rlen = some n)
    (hcap : n.toNat ≤ s.params.bufCap) (hlo : Memory.read s.buf 1 = some lo) (hhi : Memory.read s.buf 2 = some hi)
    (h11 : 11 ≤ (lengthOf (le16 lo hi)).toNat) (hlen : (lengthOf (le16 lo hi)).toNat ≤ n.toNat) :
    RefusesMissing .decode s (decodeChecked (lengthOf (le16 lo hi)).toNat s) := by
  have ho : OperandsValued .decode s := by simp [OperandsValued, operandsRead, State.reg, hn]
  have hreads := decodeReads_iff hn (h11.trans hlen) hcap hlo hhi
  generalize (lengthOf (le16 lo hi)).toNat = len at h11 hlen hreads ⊢
  have hfirst : ∀ j < 4, ReadsByte .decode s .buf j := fun j hj => ⟨rfl, (hreads j).mpr (by omega)⟩
  refine refusesMissing_withBytes ho (show 0 + 3 ≤ s.params.bufCap by omega) (fun j _ hj => hfirst j (by omega))
    fun short hl hshort => ?_
  match short, hl with
  | [b0, b1, b2], _ =>
  have h0 : Memory.read s.buf 0 = some b0 := hshort.head
  cases hlo.symm.trans hshort.tail.head
  cases hhi.symm.trans hshort.tail.tail.head
  refine refusesMissing_withByte ho (show 3 < s.params.bufCap by omega) (hfirst 3 (by decide)) fun c8 h3 => ?_
  rw [mem_buf] at h3
  refine refusesMissing_ite (fun hbad => ?_) fun hgood => ?_
  · refine refusesMissing_next ⟨ho, fun m j ⟨hm, hj⟩ => ?_⟩ _
    subst hm
    have hj4 := decodeReads_lt_four h0 hlo hhi h3 hbad hj
    obtain rfl | hj3 : j = 3 ∨ j < 3 := by omega
    · exact h3 ▸ Option.some_ne_none c8
    · exact hshort.read_ne_none (Nat.zero_le j) (by simpa using hj3)
  · have hgram : ∀ j < len, ReadsByte .decode s .buf j := fun j hj =>
      ⟨rfl, (hreads j).mpr (.inr (.inr ⟨h11, hlen, .inr ⟨hj, b0, c8, h0, h3, not_not.mp hgood⟩⟩))⟩
    refine refusesMissing_withBytes ho (show 0 + (len - 2) ≤ s.params.bufCap by omega)
      (fun j _ hj => hgram j (by omega)) fun body hl hbody => ?_
    refine refusesMissing_withByte ho (show len - 2 < s.params.bufCap by omega) (hgram _ (by omega)) fun clo hclo => ?_
    refine refusesMissing_withByte ho (show len - 1 < s.params.bufCap by omega) (hgram _ (by omega)) fun chi hchi => ?_
    have hvalued : InputsValued .decode s := by
      refine ⟨ho, fun m j ⟨hm, hj⟩ => ?_⟩
      subst hm
      have hjlen : j < len := by
        have := (hreads j).mp hj
        omega
      obtain hj | rfl | rfl : j < len - 2 ∨ j = len - 2 ∨ j = len - 1 := by omega
      · exact hbody.read_ne_none (Nat.zero_le j) (by omega)
      · exact hclo ▸ Option.some_ne_none clo
      · exact hchi ▸ Option.some_ne_none chi
    exact refusesMissing_ite (fun _ => refusesMissing_next hvalued _) fun _ => refusesMissing_next hvalued _

theorem refusesMissing_execDecode (s : State) : RefusesMissing .decode s (execDecode s) := by
  refine refusesMissing_withReceived rfl (fun n hn hout m j ⟨_, n', hn', _, hcap, _⟩ => ?_) fun n hn ho hcap => ?_
  · cases hn.symm.trans hn'
    omega
  · refine refusesMissing_ite (fun hshort : n.toNat < 11 => ?_) fun hlong => ?_
    · refine refusesMissing_next (.of_reads_nothing ho fun m j ⟨_, n', hn', h11, _⟩ => ?_) _
      cases hn.symm.trans hn'
      omega
    · have h11 : 11 ≤ n.toNat := Nat.le_of_not_lt hlong
      have hsize : ∀ j, j = 1 ∨ j = 2 → ReadsByte .decode s .buf j := fun j hj =>
        ⟨rfl, n, hn, h11, hcap, hj.imp_right .inl⟩
      refine refusesMissing_withByte ho (show 1 < s.params.bufCap by omega) (hsize 1 (.inl rfl)) fun lo hlo => ?_
      refine refusesMissing_withByte ho (show 2 < s.params.bufCap by omega) (hsize 2 (.inr rfl)) fun hi hhi => ?_
      refine refusesMissing_ite (fun hbad : n.toNat < _ ∨ _ < 11 => ?_) fun hsane : ¬ (n.toNat < _ ∨ _ < 11) => ?_
      · refine refusesMissing_next ⟨ho, fun m j ⟨hm, hj⟩ => ?_⟩ _
        subst hm
        obtain rfl | rfl | ⟨hmin, hmax, -⟩ := (decodeReads_iff hn h11 hcap hlo hhi j).mp hj
        · exact hlo ▸ Option.some_ne_none lo
        · exact hhi ▸ Option.some_ne_none hi
        · omega
      · exact refusesMissing_decodeChecked hn hcap hlo hhi (by omega) (by omega)

theorem refusesMissing_execEncode (s : State) : RefusesMissing .encode s (execEncode s) := by
  refine refusesMissing_withReg (by decide) (fun h => by simp [State.reg, h]) fun kind hkind => ?_
  refine refusesMissing_withReg (by decide) id fun mid hmid => refusesMissing_withReg (by decide) id fun seq hseq => ?_
  refine refusesMissing_withReg (by decide) id fun plen hplen => ?_
  have ho : OperandsValued .encode s := by simp [OperandsValued, operandsRead, State.reg, hkind, hmid, hseq, hplen]
  have hreads := readsByte_encode_iff hplen
  refine refusesMissing_ite (fun hout => ?_) fun hin => ?_
  · exact refusesMissing_next (.of_reads_nothing ho fun m j h => by have := (hreads m j).mp h; omega) _
  · refine refusesMissing_withBytes ho (show 0 + plen.toNat ≤ s.params.maxPayload by omega)
      (fun j _ hj => (hreads _ j).mpr ⟨rfl, by omega⟩) fun p hl hp => ?_
    have hi : InputsValued .encode s := by
      refine ⟨ho, fun m j h => ?_⟩
      obtain ⟨rfl, -, hj⟩ := (hreads m j).mp h
      exact hp.read_ne_none (Nat.zero_le j) (by omega)
    exact refusesMissing_putBytes hi fun t => refusesMissing_next hi _

theorem refusesMissing_execClassify (haux : s.params.hasAux = true) : RefusesMissing .classify s (execClassify s) := by
  rw [execClassify, needsAux_true _ haux]
  refine refusesMissing_withReceived rfl (fun n hn hout m j h => ?_) fun n hn ho hcap => ?_
  · have := (readsByte_classify_iff hn m j).mp h
    omega
  · have hreads := readsByte_classify_iff hn
    refine refusesMissing_ite (fun hshort : n.toNat < 9 => ?_) fun hlong : ¬ n.toNat < 9 => ?_
    · exact refusesMissing_next (.of_reads_nothing ho fun m j h => by have := (hreads m j).mp h; omega) _
    · refine refusesMissing_withBytes ho (show 0 + 9 ≤ s.params.bufCap by omega)
        (fun j _ (hj : j < 0 + 9) => (hreads _ j).mpr ⟨rfl, by omega⟩) fun bs (hl : bs.length = 9) hh => ?_
      refine refusesMissing_next ⟨ho, fun m j h => ?_⟩ _
      obtain ⟨rfl, -, -, hj⟩ := (hreads m j).mp h
      exact hh.read_ne_none (Nat.zero_le j) (by omega)

theorem refusesMissing_execHsreq (haux : s.params.hasAux = true) : RefusesMissing .hsreq s (execHsreq s) := by
  rw [execHsreq, needsAux_true _ haux]
  refine refusesMissing_withReg (by decide) id fun port hport => ?_
  have hi : InputsValued .hsreq s :=
    .of_reads_nothing (by simp [OperandsValued, operandsRead, State.reg, hport]) fun _ _ => id
  exact refusesMissing_putBytes hi fun t => refusesMissing_next hi _

theorem refusesMissing_execDispatch (haux : s.params.hasAux = true) : RefusesMissing .dispatch s (execDispatch s) := by
  rw [execDispatch, needsAux_true _ haux]
  refine refusesMissing_withReg (by decide) id fun mid hmid => ?_
  have ho : OperandsValued .dispatch s := by simp [OperandsValued, operandsRead, State.reg, hmid]
  exact refusesMissing_next (.of_reads_nothing ho fun _ _ => id) _

theorem refusesMissing_execFlightdata (haux : s.params.hasAux = true) :
    RefusesMissing .flightdata s (execFlightdata s) := by
  rw [execFlightdata, needsAux_true _ haux]
  refine refusesMissing_withRange rfl (fun a n ha hn hout m j h => ?_) fun a n ha hn ho hin => ?_
  · obtain ⟨-, rfl, hcap, -⟩ := (readsByte_flightdata_iff ha hn m j).mp h
    exact absurd hout (Nat.not_lt.mpr hcap)
  · have hreads := readsByte_flightdata_iff ha hn
    refine refusesMissing_ite (fun hcount : n.toNat ≠ 24 => ?_) fun hcount : ¬ n.toNat ≠ 24 => ?_
    · refine refusesMissing_next (.of_reads_nothing ho fun m j h => ?_) _
      obtain ⟨-, rfl, -⟩ := (hreads m j).mp h
      exact hcount rfl
    · have hn24 : n = 24 := BitVec.eq_of_toNat_eq (not_not.mp hcount)
      subst hn24
      change a.toNat + 24 ≤ s.params.bufCap at hin
      have htaken : ∀ j, j = a.toNat ∨ j = a.toNat + 1 ∨ j = a.toNat + 12 ∨ j = a.toNat + 20 →
          ReadsByte .flightdata s .buf j := fun j hj => (hreads _ j).mpr ⟨rfl, rfl, hin, hj⟩
      refine refusesMissing_withByte ho (show _ < s.params.bufCap by omega) (htaken _ (by omega)) fun lo hlo => ?_
      refine refusesMissing_withByte ho (show _ < s.params.bufCap by omega) (htaken _ (by omega)) fun hi hhi => ?_
      refine refusesMissing_withByte ho (show _ < s.params.bufCap by omega) (htaken _ (by omega)) fun batt hbatt => ?_
      refine refusesMissing_withByte ho (show _ < s.params.bufCap by omega) (htaken _ (by omega)) fun cam hcam => ?_
      refine refusesMissing_next ⟨ho, fun m j h => ?_⟩ _
      obtain ⟨rfl, -, -, rfl | rfl | rfl | rfl⟩ := (hreads m j).mp h
      · exact hlo ▸ Option.some_ne_none lo
      · exact hhi ▸ Option.some_ne_none hi
      · exact hbatt ▸ Option.some_ne_none batt
      · exact hcam ▸ Option.some_ne_none cam

/-- A wire-format row needs nothing. -/
theorem refusesMissing_putRow {place : Nat} {row : Instr} (h : InputsValued row s) :
    RefusesMissing row s (putRow place row s) :=
  refusesMissing_putBytes h fun t => refusesMissing_next h t

/-- Every row of the build is refused for what is missing and for nothing else. -/
theorem exec_refusesMissing {i : Instr} (hp : Present i s) : RefusesMissing i s (exec i s) := by
  cases i with
  | crc8 => exact refusesMissing_execCrc8 s
  | crc16 => exact refusesMissing_execCrc16 s
  | decode => exact refusesMissing_execDecode s
  | encode => exact refusesMissing_execEncode s
  | classify => exact refusesMissing_execClassify (hp rfl)
  | hsreq => exact refusesMissing_execHsreq (hp rfl)
  | dispatch => exact refusesMissing_execDispatch (hp rfl)
  | flightdata => exact refusesMissing_execFlightdata (hp rfl)
  | illegal code => exact refusesMissing_next (.of_reads_nothing (fun _ hr => by cases hr) fun _ _ => id) _
  | gramHeader | gramTodrone | gramKeepalive | msgConnectAckEcho | msgKeepalive | msgFlightData | hsConnReq | hsConnAck
  | flightDataPayload => exact refusesMissing_putRow (.of_reads_nothing (fun _ hr => by cases hr) fun _ _ => id)

/-- An auxiliary row of a build without HAS_AUX is an illegal operation (R66). -/
theorem exec_of_not_present {i : Instr} (hp : ¬ Present i s) : exec i s = endIllegal s := by
  rw [Present, Classical.not_imp, Bool.not_eq_true] at hp
  obtain ⟨hi, haux⟩ := hp
  cases i with
  | classify | hsreq | dispatch | flightdata => exact needsAux_false _ haux
  | crc8 | crc16 | decode | encode | illegal | gramHeader | gramTodrone | gramKeepalive | msgConnectAckEcho | msgKeepalive
  | msgFlightData | hsConnReq | hsConnAck | flightDataPayload => cases hi

/-- With valued operand registers and memories a row that makes no access outside them completes. -/
theorem exec_completes {i : Instr} (hf : NoFault (exec i s)) (ho : OperandsValued i s) (hm : MemoriesValued s) :
    ∃ t, exec i s = .next t := by
  by_cases hp : Present i s
  · cases he : exec i s with
    | next t => exact ⟨t, rfl⟩
    | fault f => exact absurd he (hf f)
    | refused r =>
      cases he ▸ exec_refusesMissing hp with
      | register hr hv => exact absurd (ho _ hr) (by simp [hv])
      | byte _ hr hv => exact absurd (hm _ _ (readsByte_inside hr)) (by simp [hv])
      | answer _ hno => exact absurd rfl (hno r)
  · exact ⟨_, exec_of_not_present hp⟩

end

/-- Settles O17: the two ways in which a row is refused. -/
theorem issueWithoutOperandRefused : Obligations.IssueWithoutOperandRefused := by
  unfold Obligations.IssueWithoutOperandRefused
  intro i s hp
  have h := exec_refusesMissing hp
  generalize exec i s = o at h
  cases h with
  | register hr hv =>
    exact ⟨fun _ => ⟨_, hr, hv, rfl⟩, fun m a ho _ _ => absurd (ho _ hr) (by simp [hv])⟩
  | byte ho hr hv => exact ⟨fun hno => absurd ho hno, fun m a _ _ _ => ⟨_, _, hr, hv, rfl⟩⟩
  | answer hi hno =>
    obtain ⟨ho, hbytes⟩ := hi
    exact ⟨fun hno => absurd ho hno, fun m a _ hr hv => absurd hv (hbytes m a hr)⟩

/-- OP is no operand register that an operation reads. -/
theorem op_not_mem_operandsRead (i : Instr) : .op ∉ operandsRead i := by cases i <;> simp [operandsRead]

/-- The write of a code to OP leaves every other register as it was. -/
theorem setOp_reg (s : State) (code : Byte) {r : Reg} (h : r ≠ .op) :
    (s.setOperands { s.operands with op := some code }).reg r = s.reg r := by
  cases r with
  | op => exact absurd rfl h
  | _ => rfl

/-- The operand registers that hold values still do once the code is in OP. -/
theorem OperandsValued.setOp {i : Instr} {s : State} (h : OperandsValued i s) (code : Byte) :
    OperandsValued i (s.setOperands { s.operands with op := some code }) := fun r hr => by
  rw [setOp_reg s code (ne_of_mem_of_not_mem hr (op_not_mem_operandsRead i))]
  exact h r hr

theorem OperandsValued.setPending {i : Instr} {s : State} (h : OperandsValued i s) (v : List HostAction) :
    OperandsValued i (s.setPending v) := fun r hr => (State.setPending_reg s v r).symm ▸ h r hr

/-- Settles O16: no operation faults, and with its inputs valued none is refused. -/
theorem everyIssueCompletes : Obligations.EveryIssueCompletes := by
  unfold Obligations.EveryIssueCompletes
  intro s code rest hp hm ho hpend
  obtain ⟨t, ht⟩ := exec_completes (s := (s.setPending rest).setOperands { s.operands with op := some code })
    (fun f => operationsStayInBounds code _ f hp) ((ho.setPending rest).setOp code) hm
  have hf := exec_frame ht
  exact ⟨t, (step_of_pending hpend).trans ht, hf.pending, congrArg OperandRegs.op hf.operands⟩

end Sys2Proof.Machine
end

section
/-! Determinism (R11, R145): the same row run in two states that agree on the build, the operand registers and the
memories gives the same results, because each part an operation is made of sees nothing else. -/

namespace Sys2Proof.Machine

/-- If the first outcome goes on, so does the second, with the same BUF and the same values in the registers of row `i`. -/
def SameResults (i : Instr) (o o' : Out) : Prop :=
  ∀ t, o = .next t → ∃ t', o' = .next t' ∧ t'.buf = t.buf ∧ ∀ r ∈ registersWritten i, t'.reg r = t.reg r

section

variable {i : Instr} {s s' : State}

theorem SameInputs.mem (h : SameInputs s s') (m : MemName) : s.mem m = s'.mem m := by
  obtain ⟨-, -, hbuf, hpay⟩ := h
  cases m with
  | buf => exact hbuf
  | pay => exact hpay

theorem sameResults_next {t t' : State} (hb : t'.buf = t.buf) (hr : ∀ r ∈ registersWritten i, t'.reg r = t.reg r) :
    SameResults i (.next t) (.next t') := fun u hu => by
  cases hu
  exact ⟨t', rfl, hb, hr⟩

theorem sameResults_refused (r : Refusal) (o' : Out) : SameResults i (.refused r) o' := fun _ h => by cases h

theorem sameResults_fault (f : Fault) (o' : Out) : SameResults i (.fault f) o' := fun _ h => by cases h

theorem sameResults_ite {c c' : Prop} [Decidable c] [Decidable c'] {o₁ o₂ o₁' o₂' : Out} (hc : c ↔ c')
    (h₁ : SameResults i o₁ o₁') (h₂ : SameResults i o₂ o₂') :
    SameResults i (if c then o₁ else o₂) (if c' then o₁' else o₂') := by
  by_cases h : c
  · rwa [if_pos h, if_pos (hc.mp h)]
  · rwa [if_neg h, if_neg (mt hc.mpr h)]

/-! ### The parts of an operation -/

theorem sameResults_withReg {w : Nat} {r : Reg} {v v' : Option (BitVec w)} {k k' : BitVec w → Out} (hv : v = v')
    (h : ∀ x, SameResults i (k x) (k' x)) : SameResults i (withReg r v k) (withReg r v' k') := by
  subst hv
  cases v with
  | none => exact sameResults_refused _ _
  | some x => exact h x

theorem sameResults_withBytes {m : MemName} {a n : Nat} {k k' : List Byte → Out} (hin : SameInputs s s')
    (h : ∀ bs, SameResults i (k bs) (k' bs)) : SameResults i (withBytes m a n s k) (withBytes m a n s' k') := by
  have hm := hin.mem m
  obtain ⟨hp, -, -, -⟩ := hin
  simp only [withBytes, ← hp, ← hm]
  refine sameResults_ite Iff.rfl (sameResults_fault _ _) ?_
  cases Memory.readBytes (s.mem m) a n with
  | ok bs => exact h bs
  | error j => exact sameResults_refused _ _

theorem sameResults_withByte {m : MemName} {j : Nat} {k k' : Byte → Out} (hin : SameInputs s s')
    (h : ∀ b, SameResults i (k b) (k' b)) : SameResults i (withByte m j s k) (withByte m j s' k') :=
  sameResults_withBytes hin fun _ => h _

theorem sameResults_putBuf {a : Nat} {bs : List Byte} {k k' : State → Out} (hin : SameInputs s s')
    (h : ∀ b, SameResults i (k (s.setBuf b)) (k' (s'.setBuf b))) :
    SameResults i (putBytes .buf a bs s k) (putBytes .buf a bs s' k') := by
  obtain ⟨hp, -, hbuf, -⟩ := hin
  simp only [putBytes, mem_buf, setMem_buf, ← hp, ← hbuf]
  exact sameResults_ite Iff.rfl (sameResults_fault _ _) (h _)

theorem sameResults_withRange {g : OwnResults} {k k' : Nat → Nat → Out} (hin : SameInputs s s')
    (he : SameResults i (endWith g .badOperand s) (endWith g .badOperand s'))
    (h : ∀ a n, SameResults i (k a n) (k' a n)) : SameResults i (withRange g s k) (withRange g s' k') := by
  obtain ⟨hp, ho, -, -⟩ := hin
  refine sameResults_withReg (by rw [ho]) fun a => sameResults_withReg (by rw [ho]) fun n => ?_
  exact sameResults_ite (by rw [hp]) he (h _ _)

theorem sameResults_withReceived {g : OwnResults} {k k' : Nat → Out} (hin : SameInputs s s')
    (he : SameResults i (endWith g .badOperand s) (endWith g .badOperand s'))
    (h : ∀ n, SameResults i (k n) (k' n)) : SameResults i (withReceived g s k) (withReceived g s' k') := by
  obtain ⟨hp, ho, -, -⟩ := hin
  exact sameResults_withReg (by rw [ho]) fun n => sameResults_ite (by rw [hp]) he (h _)

/-! ### The ends of each operation -/

theorem sameResults_setCrc8Out (hb : s.buf = s'.buf) (v x : Option Byte) :
    SameResults .crc8 (.next ((s.setCrc8Out v).setStatus x)) (.next ((s'.setCrc8Out v).setStatus x)) :=
  sameResults_next hb.symm (by simp [registersWritten, State.reg])

theorem sameResults_setCrc16Out (hb : s.buf = s'.buf) (v : Option Half) (x : Option Byte) :
    SameResults .crc16 (.next ((s.setCrc16Out v).setStatus x)) (.next ((s'.setCrc16Out v).setStatus x)) :=
  sameResults_next hb.symm (by simp [registersWritten, State.reg])

theorem sameResults_setGram (hb : s.buf = s'.buf) (v : GramRegs) (x : Option Byte) :
    SameResults .decode (.next ((s.setGram v).setStatus x)) (.next ((s'.setGram v).setStatus x)) :=
  sameResults_next hb.symm (by simp [registersWritten, State.reg])

/-- ENCODE and HSREQ write ELEN alike. -/
theorem sameResults_setElen (hi : registersWritten i = [.status, .elen]) (hb : s.buf = s'.buf) (v : Option Half)
    (x : Option Byte) : SameResults i (.next ((s.setElen v).setStatus x)) (.next ((s'.setElen v).setStatus x)) :=
  sameResults_next hb.symm (by simp [hi, State.reg])

theorem sameResults_setCls (hb : s.buf = s'.buf) (v : Option (BitVec 1)) (x : Option Byte) :
    SameResults .classify (.next ((s.setCls v).setStatus x)) (.next ((s'.setCls v).setStatus x)) :=
  sameResults_next hb.symm (by simp [registersWritten, State.reg])

theorem sameResults_setDclass (hb : s.buf = s'.buf) (v : Option (BitVec 2)) (x : Option Byte) :
    SameResults .dispatch (.next ((s.setDclass v).setStatus x)) (.next ((s'.setDclass v).setStatus x)) :=
  sameResults_next hb.symm (by simp [registersWritten, State.reg])

theorem sameResults_setFlight (hb : s.buf = s'.buf) (v : FlightRegs) (x : Option Byte) :
    SameResults .flightdata (.next ((s.setFlight v).setStatus x)) (.next ((s'.setFlight v).setStatus x)) :=
  sameResults_next hb.symm (by simp [registersWritten, State.reg])

/-! ### The operations -/

theorem sameResults_execCrc8 (hin : SameInputs s s') : SameResults .crc8 (execCrc8 s) (execCrc8 s') := by
  have ⟨hp, _, hb, _⟩ := hin
  refine sameResults_withRange hin (sameResults_setCrc8Out hb _ _) fun a n => sameResults_withBytes hin fun bs => ?_
  rw [hp]
  exact sameResults_setCrc8Out hb _ _

theorem sameResults_execCrc16 (hin : SameInputs s s') : SameResults .crc16 (execCrc16 s) (execCrc16 s') := by
  have ⟨hp, _, hb, _⟩ := hin
  refine sameResults_withRange hin (sameResults_setCrc16Out hb _ _) fun a n => sameResults_withBytes hin fun bs => ?_
  rw [hp]
  exact sameResults_setCrc16Out hb _ _

theorem sameResults_decodeChecked (hin : SameInputs s s') (len : Nat) :
    SameResults .decode (decodeChecked len s) (decodeChecked len s') := by
  have ⟨hp, _, hb, _⟩ := hin
  have hend (v x) := sameResults_setGram hb v x
  refine sameResults_withBytes hin fun short => sameResults_withByte hin fun c8 => ?_
  refine sameResults_ite (by rw [hp]) (hend _ _) ?_
  refine sameResults_withBytes hin fun body => sameResults_withByte hin fun lo => sameResults_withByte hin fun hi => ?_
  exact sameResults_ite (by rw [hp]) (hend _ _) (hend _ _)

theorem sameResults_execDecode (hin : SameInputs s s') : SameResults .decode (execDecode s) (execDecode s') := by
  have ⟨_, _, hb, _⟩ := hin
  have hend (v x) := sameResults_setGram hb v x
  refine sameResults_withReceived hin (hend _ _) fun n => sameResults_ite Iff.rfl (hend _ _) ?_
  refine sameResults_withByte hin fun lo => sameResults_withByte hin fun hi => ?_
  exact sameResults_ite Iff.rfl (hend _ _) (sameResults_decodeChecked hin _)

theorem sameResults_execEncode (hin : SameInputs s s') : SameResults .encode (execEncode s) (execEncode s') := by
  have ⟨hp, ho, hb, _⟩ := hin
  refine sameResults_withReg (by rw [ho]) fun kind => sameResults_withReg (by rw [ho]) fun mid => ?_
  refine sameResults_withReg (by rw [ho]) fun seq => sameResults_withReg (by rw [ho]) fun plen => ?_
  refine sameResults_ite (by rw [hp]) (sameResults_setElen rfl hb _ _) ?_
  refine sameResults_withBytes hin fun p => ?_
  rw [hp]
  exact sameResults_putBuf hin fun b => sameResults_setElen (s := s.setBuf b) (s' := s'.setBuf b) rfl rfl _ _

theorem sameResults_execClassify (hin : SameInputs s s') (haux : s.params.hasAux = true) :
    SameResults .classify (execClassify s) (execClassify s') := by
  have ⟨hp, _, hb, _⟩ := hin
  have hend (v x) := sameResults_setCls hb v x
  rw [execClassify, execClassify, needsAux_true _ haux, needsAux_true _ (hp ▸ haux)]
  refine sameResults_withReceived hin (hend _ _) fun n => sameResults_ite Iff.rfl (hend _ _) ?_
  exact sameResults_withBytes hin fun bs => hend _ _

theorem sameResults_execHsreq (hin : SameInputs s s') (haux : s.params.hasAux = true) :
    SameResults .hsreq (execHsreq s) (execHsreq s') := by
  have ⟨hp, ho, _, _⟩ := hin
  rw [execHsreq, execHsreq, needsAux_true _ haux, needsAux_true _ (hp ▸ haux)]
  refine sameResults_withReg (by rw [ho]) fun port => ?_
  exact sameResults_putBuf hin fun b => sameResults_setElen (s := s.setBuf b) (s' := s'.setBuf b) rfl rfl _ _

theorem sameResults_execDispatch (hin : SameInputs s s') (haux : s.params.hasAux = true) :
    SameResults .dispatch (execDispatch s) (execDispatch s') := by
  have ⟨hp, ho, hb, _⟩ := hin
  rw [execDispatch, execDispatch, needsAux_true _ haux, needsAux_true _ (hp ▸ haux)]
  exact sameResults_withReg (by rw [ho]) fun mid => sameResults_setDclass hb _ _

theorem sameResults_execFlightdata (hin : SameInputs s s') (haux : s.params.hasAux = true) :
    SameResults .flightdata (execFlightdata s) (execFlightdata s') := by
  have ⟨hp, _, hb, _⟩ := hin
  have hend (v x) := sameResults_setFlight hb v x
  rw [execFlightdata, execFlightdata, needsAux_true _ haux, needsAux_true _ (hp ▸ haux)]
  refine sameResults_withRange hin (hend _ _) fun a n => sameResults_ite Iff.rfl (hend _ _) ?_
  refine sameResults_withByte hin fun lo => sameResults_withByte hin fun hi => ?_
  exact sameResults_withByte hin fun batt => sameResults_withByte hin fun cam => hend _ _

theorem sameResults_execIllegal (hin : SameInputs s s') (code : Byte) :
    SameResults (.illegal code) (execIllegal code s) (execIllegal code s') := by
  have ⟨_, _, hb, _⟩ := hin
  exact sameResults_next hb.symm (by simp [registersWritten, State.reg])

/-- A wire-format row writes no register. -/
theorem sameResults_putRow {place : Nat} {row : Instr} (hin : SameInputs s s') (hr : registersWritten row = []) :
    SameResults row (putRow place row s) (putRow place row s') :=
  sameResults_putBuf hin fun b => sameResults_next rfl (by simp [hr])

end

/-- Settles O23: every row sees its inputs alone. -/
theorem resultsDoNotDependOnHistory : Obligations.ResultsDoNotDependOnHistory := by
  unfold Obligations.ResultsDoNotDependOnHistory
  intro i s s' t hp hin
  suffices h : SameResults i (exec i s) (exec i s') from h t
  cases i with
  | crc8 => exact sameResults_execCrc8 hin
  | crc16 => exact sameResults_execCrc16 hin
  | decode => exact sameResults_execDecode hin
  | encode => exact sameResults_execEncode hin
  | classify => exact sameResults_execClassify hin (hp rfl)
  | hsreq => exact sameResults_execHsreq hin (hp rfl)
  | dispatch => exact sameResults_execDispatch hin (hp rfl)
  | flightdata => exact sameResults_execFlightdata hin (hp rfl)
  | illegal code => exact sameResults_execIllegal hin code
  | gramHeader | gramTodrone | gramKeepalive | msgConnectAckEcho | msgKeepalive | msgFlightData | hsConnReq | hsConnAck
  | flightDataPayload => exact sameResults_putRow hin rfl

end Sys2Proof.Machine
end

section
/-! DECODE of held bytes (R87 to R90, R94): where BUF begins with a byte sequence of the total length that its size
field stands for, the two checksum tests on that sequence alone settle the outcome. -/

namespace Sys2Proof.Machine

/-- The byte at an offset of a byte sequence held from index 0. -/
theorem Holds.read {m : Memory} {b : List Byte} (h : Holds m 0 b) {i : Nat} (hi : i < b.length) :
    Memory.read m i = some (byteAt b i) := by
  simpa using h i hi

/-- With RLEN from 11 to the capacity, DECODE reads the size field and goes on with its total length (R87). -/
theorem execDecode_sized {s : State} {n : Half} {lo hi : Byte} (hn : s.operands.rlen = some n)
    (hcap : n.toNat ≤ s.params.bufCap) (h11 : 11 ≤ n.toNat) (hlo : Memory.read s.buf 1 = some lo)
    (hhi : Memory.read s.buf 2 = some hi) : execDecode s = decodeSized n.toNat ((le16 lo hi).toNat / 8) s := by
  rw [execDecode, withReceived_inside _ hn hcap, if_neg (Nat.not_lt.mpr h11), withBufByte_some _ (by omega) hlo,
    withBufByte_some _ (by omega) hhi, lengthOf_toNat]

/-- A total length from 11 to RLEN is sane (R89). -/
theorem decodeSized_sane {rlen len : Nat} (s : State) (h11 : 11 ≤ len) (hlen : len ≤ rlen) :
    decodeSized rlen len s = decodeChecked len s :=
  if_neg (not_or.mpr ⟨Nat.not_lt.mpr hlen, Nat.not_lt.mpr h11⟩)

/-- Both stored checksums of a gram that fills the byte sequence are the recomputed ones (R87, R90). -/
abbrev ChecksumsMatch (p : Params) (b : List Byte) : Prop :=
  p.crc8 (b.take 3) = byteAt b 3 ∧
    p.crc16 (b.take (b.length - 2)) = le16 (byteAt b (b.length - 2)) (byteAt b (b.length - 1))

/-- The checksum tests and the unpacking see only the held bytes, and all of them. -/
theorem decodeChecked_holds {s : State} {b : List Byte} (h11 : 11 ≤ b.length) (hcap : b.length ≤ s.params.bufCap)
    (hb : Holds s.buf 0 b) : decodeChecked b.length s =
      if ChecksumsMatch s.params b then endOk (s.setGram (gramRegs (unpackGram b)))
      else endWith .gram .checksumInvalid s := by
  rw [decodeChecked, withBufBytes_holds _ (by omega) (List.length_take_of_le (by omega)) (hb.take 3),
    withBufByte_some _ (by omega) (hb.read (by omega))]
  by_cases h8 : s.params.crc8 (b.take 3) = byteAt b 3
  · rw [if_neg (not_not.mpr h8), withBufBytes_holds _ (by omega) (List.length_take_of_le (by omega)) (hb.take _),
      withBufByte_some _ (by omega) (hb.read (by omega)), withBufByte_some _ (by omega) (hb.read (by omega)),
      take_append_last_two (by omega), ite_not]
    simp only [ChecksumsMatch, h8, true_and]
  · rw [if_pos h8, if_neg fun hm => h8 hm.1]

/-- DECODE where BUF begins with the bytes of a gram that RLEN covers. -/
theorem execDecode_holds {s : State} {n : Half} {b : List Byte} (hn : s.operands.rlen = some n)
    (hcap : n.toNat ≤ s.params.bufCap) (hlen : b.length ≤ n.toNat) (h11 : 11 ≤ b.length) (hb : Holds s.buf 0 b)
    (hsize : (le16 (byteAt b 1) (byteAt b 2)).toNat / 8 = b.length) : execDecode s =
      if ChecksumsMatch s.params b then endOk (s.setGram (gramRegs (unpackGram b)))
      else endWith .gram .checksumInvalid s := by
  rw [execDecode_sized hn hcap (h11.trans hlen) (hb.read (by omega)) (hb.read (by omega)), hsize,
    decodeSized_sane s h11 hlen, decodeChecked_holds h11 (hlen.trans hcap) hb]

/-- G_DIR as a code: bit 7 first, then bit 6 (R14, R54). -/
theorem directionCode_directionOf (d : Byte) :
    directionCode (directionOf d) = if d.getLsbD 7 then 2 else if d.getLsbD 6 then 1 else 0 := by
  rw [directionOf, apply_ite directionCode, apply_ite directionCode]
  rfl

/-- A size field that stands for `k` gives G_SIZE `k` (R57). -/
theorem lengthOf_eq_ofNat {sf : Half} {k : Nat} (h : sf.toNat / 8 = k) : lengthOf sf = BitVec.ofNat 16 k := by
  rw [← h, ← lengthOf_toNat, BitVec.ofNat_toNat, BitVec.setWidth_eq]

/-- A size field that stands for `k` gives G_PLEN `k - 11`, without wrap-around (R87). -/
theorem payloadLength_eq_ofNat {sf : Half} {k : Nat} (h : sf.toNat / 8 = k) (h11 : 11 ≤ k) :
    lengthOf sf - BitVec.ofNat 16 fixedBytes = BitVec.ofNat 16 (k - 11) := by
  rw [lengthOf_eq_ofNat h, fixedBytes]
  bv_omega

/-- Settles O31: both checksum tests pass, and the size and direction registers are those of the unpacked gram. -/
theorem decodeOfAValidGram : Obligations.DecodeOfAValidGram := by
  unfold Obligations.DecodeOfAValidGram
  intro s n b sf st d hn hcap hlen h11 hb hsize h8 h16
  have hexec : exec .decode s = endOk (s.setGram (gramRegs (unpackGram b))) :=
    (execDecode_holds hn hcap hlen h11 hb hsize).trans (if_pos ⟨h8, h16⟩)
  rw [hexec, ← directionCode_directionOf, ← lengthOf_eq_ofNat hsize, ← payloadLength_eq_ofNat hsize h11]
  rfl

/-- Settles O35: a checksum test fails. -/
theorem decodeChecksumInvalid : Obligations.DecodeChecksumInvalid := by
  unfold Obligations.DecodeChecksumInvalid
  intro s n b hn hcap hlen h11 hb hsize hbad
  exact (execDecode_holds hn hcap hlen h11 hb hsize).trans (if_neg (not_and_or.mpr hbad))

end Sys2Proof.Machine
end

section
/-! The wire-format rows (R38, R68; log 13): each is one store of its bytes. -/

namespace Sys2Proof.Machine

/-- A row that is `putRow` at a place stores its bytes there. -/
theorem placesRow_of_exec {row : Instr} {place : Nat} {s : State} (h : exec row s = putRow place row s) :
    PlacesRow row place s := fun hin =>
  ⟨_, h.trans (putBytes_inside (m := .buf) .next hin), Memory.writeBytes_storedAt s.buf place (encode row)⟩

/-- Settles O57: each row is `putRow` at its format's place. -/
theorem wireRowsStoreTheirBytes : Obligations.WireRowsStoreTheirBytes := by
  unfold Obligations.WireRowsStoreTheirBytes
  intro s
  exact ⟨fun _ _ _ _ _ _ _ _ _ => placesRow_of_exec rfl, fun _ _ _ _ _ => placesRow_of_exec rfl,
    fun _ _ _ => placesRow_of_exec rfl, placesRow_of_exec rfl, placesRow_of_exec rfl, placesRow_of_exec rfl,
    fun _ => placesRow_of_exec rfl, placesRow_of_exec rfl, fun _ _ _ _ _ _ => placesRow_of_exec rfl⟩

end Sys2Proof.Machine
end

section
/-! The fields of the fixed header (R53, R55, R57): how the size field and the discriminator are put together from their
parts and taken apart again. -/

namespace Sys2Proof.Machine

/-- The lower byte of a size field: the five low bits of the length over the three low bits (R53, R57). -/
def sizeLowByte (len : BitVec 13) (low : BitVec 3) : Byte := len.extractLsb' 0 5 ++ low

/-- The upper byte of a size field (R53, R57). -/
def sizeHighByte (len : BitVec 13) : Byte := len.extractLsb' 5 8

/-- The discriminator with the given direction bits, kind and subtype (R55). -/
def discriminatorOf (f d : BitVec 1) (kind sub : BitVec 3) : Byte := f ++ d ++ kind ++ sub

theorem headerBytes_eq (len : BitVec 13) (low : BitVec 3) (c8 : Byte) (f d : BitVec 1) (kind sub : BitVec 3)
    (id seq : Half) : headerBytes len low c8 f d kind sub id seq =
      [gramMagic, sizeLowByte len low, sizeHighByte len, c8, discriminatorOf f d kind sub, lowByte id, highByte id,
        lowByte seq, highByte seq] := rfl

@[simp] theorem halfBytes_le16 (lo hi : Byte) : halfBytes (le16 lo hi) = [lo, hi] := by
  simp only [halfBytes, lowByte_le16, highByte_le16]

/-! ### The size field -/

section

variable (len : BitVec 13) (low : BitVec 3) (lo hi : Byte)

@[simp] theorem sizeLowByte_low : (sizeLowByte len low).extractLsb' 0 3 = low :=
  BitVec.extractLsb'_append_eq_right

@[simp] theorem length_of_sizeBytes : sizeHighByte len ++ (sizeLowByte len low).extractLsb' 3 5 = len := by
  have hlow : (sizeLowByte len low).extractLsb' 3 5 = len.extractLsb' 0 5 := BitVec.extractLsb'_append_eq_left
  rw [hlow]
  exact BitVec.extractLsb'_append_extractLsb'

@[simp] theorem sizeLowByte_of_parts : sizeLowByte (hi ++ lo.extractLsb' 3 5) (lo.extractLsb' 0 3) = lo := by
  have hlow : (hi ++ lo.extractLsb' 3 5).extractLsb' 0 5 = lo.extractLsb' 3 5 := BitVec.extractLsb'_append_eq_right
  rw [sizeLowByte, hlow]
  exact BitVec.extractLsb'_append_extractLsb'

@[simp] theorem sizeHighByte_of_parts : sizeHighByte (hi ++ lo.extractLsb' 3 5) = hi :=
  BitVec.extractLsb'_append_eq_left

theorem sizeLowByte_toNat : (sizeLowByte len low).toNat = 8 * (len.toNat % 32) + low.toNat := by
  have hlow : low.toNat < 2 ^ 3 := low.isLt
  rw [sizeLowByte, BitVec.toNat_append, ← Nat.shiftLeft_add_eq_or_of_lt hlow, BitVec.extractLsb'_toNat,
    Nat.shiftRight_zero, Nat.shiftLeft_eq]
  omega

theorem sizeHighByte_toNat : (sizeHighByte len).toNat = len.toNat / 32 := by
  have hlen : len.toNat < 2 ^ 13 := len.isLt
  rw [sizeHighByte, BitVec.extractLsb'_toNat, Nat.shiftRight_eq_div_pow]
  omega

theorem le16_toNat : (le16 lo hi).toNat = lo.toNat + 256 * hi.toNat := by
  rw [le16, BitVec.toNat_append, ← Nat.shiftLeft_add_eq_or_of_lt lo.isLt, Nat.shiftLeft_eq]
  omega

/-- The size field is the length over its three low bits (R57). -/
theorem sizeField_toNat : (le16 (sizeLowByte len low) (sizeHighByte len)).toNat = 8 * len.toNat + low.toNat := by
  rw [le16_toNat, sizeLowByte_toNat, sizeHighByte_toNat]
  omega

/-- The size field of a length has that length's low 13 bits over three zero bits (R57, R106). -/
theorem halfBytes_sizeFieldFor (n : Nat) :
    halfBytes (sizeFieldFor n) = [sizeLowByte (BitVec.ofNat 13 n) 0, sizeHighByte (BitVec.ofNat 13 n)] := by
  have hfield : sizeFieldFor n = le16 (sizeLowByte (BitVec.ofNat 13 n) 0) (sizeHighByte (BitVec.ofNat 13 n)) := by
    apply BitVec.eq_of_toNat_eq
    rw [sizeField_toNat, sizeFieldFor, BitVec.toNat_shiftLeft, BitVec.toNat_ofNat, BitVec.toNat_ofNat, Nat.shiftLeft_eq]
    change n % 2 ^ 16 * 2 ^ 3 % 2 ^ 16 = 8 * (n % 2 ^ 13) + 0
    omega
  rw [hfield, halfBytes_le16]

end

/-! ### The discriminator -/

section

variable (f d : BitVec 1) (kind sub : BitVec 3)

@[simp] theorem discriminatorOf_subtype : (discriminatorOf f d kind sub).extractLsb' 0 3 = sub :=
  BitVec.extractLsb'_append_eq_right

/-- Above the subtype a discriminator has its direction bits and its kind. -/
theorem discriminatorOf_above_subtype {i n : Nat} (hi : 3 ≤ i) :
    (discriminatorOf f d kind sub).extractLsb' i n = (f ++ d ++ kind).extractLsb' (i - 3) n :=
  BitVec.extractLsb'_append_eq_of_le hi

@[simp] theorem discriminatorOf_kind : (discriminatorOf f d kind sub).extractLsb' 3 3 = kind :=
  (discriminatorOf_above_subtype f d kind sub le_rfl).trans BitVec.extractLsb'_append_eq_right

@[simp] theorem discriminatorOf_directions : (discriminatorOf f d kind sub).extractLsb' 6 2 = f ++ d :=
  (discriminatorOf_above_subtype f d kind sub (by decide)).trans BitVec.extractLsb'_append_eq_left

@[simp] theorem discriminatorOf_toDrone : (discriminatorOf f d kind sub).extractLsb' 6 1 = d :=
  (discriminatorOf_above_subtype f d kind sub (by decide)).trans
    ((BitVec.extractLsb'_append_eq_of_le le_rfl).trans BitVec.extractLsb'_append_eq_right)

@[simp] theorem discriminatorOf_fromDrone : (discriminatorOf f d kind sub).extractLsb' 7 1 = f :=
  (discriminatorOf_above_subtype f d kind sub (by decide)).trans
    ((BitVec.extractLsb'_append_eq_of_le (by decide)).trans BitVec.extractLsb'_append_eq_left)

@[simp] theorem discriminatorOf_bit6 : (discriminatorOf f d kind sub).getLsbD 6 = d.getLsbD 0 := by
  conv_rhs => rw [← discriminatorOf_toDrone f d kind sub, BitVec.getLsbD_extractLsb']
  rfl

@[simp] theorem discriminatorOf_bit7 : (discriminatorOf f d kind sub).getLsbD 7 = f.getLsbD 0 := by
  conv_rhs => rw [← discriminatorOf_fromDrone f d kind sub, BitVec.getLsbD_extractLsb']
  rfl

@[simp] theorem discriminatorOf_of_parts (x : Byte) :
    discriminatorOf (x.extractLsb' 7 1) (x.extractLsb' 6 1) (x.extractLsb' 3 3) (x.extractLsb' 0 3) = x := by
  have h2 : x.extractLsb' 7 1 ++ x.extractLsb' 6 1 = x.extractLsb' 6 2 :=
    BitVec.extractLsb'_append_extractLsb'_eq_extractLsb' rfl
  have h5 : x.extractLsb' 6 2 ++ x.extractLsb' 3 3 = x.extractLsb' 3 5 :=
    BitVec.extractLsb'_append_extractLsb'_eq_extractLsb' rfl
  rw [discriminatorOf, h2, h5]
  exact BitVec.extractLsb'_append_extractLsb'

end

/-- The direction bits of a header to the drone, one by one. -/
theorem directions_eq_one_iff (f d : BitVec 1) : f ++ d = 1#2 ↔ f = 0 ∧ d = 1 := by revert f d; decide

/-- ENCODE's discriminator has the direction bits 01, the low three bits of KIND and subtype 0 (R56). -/
theorem discriminatorFor_eq (kind : Byte) : discriminatorFor kind = discriminatorOf 0 1 (kind.extractLsb' 0 3) 0 := by
  refine BitVec.eq_of_getLsbD_eq fun i hi => ?_
  simp only [discriminatorFor, discriminatorOf, BitVec.getLsbD_append, BitVec.getLsbD_extractLsb', BitVec.getLsbD_or,
    BitVec.getLsbD_and, BitVec.getLsbD_shiftLeft]
  interval_cases i <;> simp

end Sys2Proof.Machine
end

section
/-! The table's decoder and its encoder (R53, R59, R60, R61, R66, R107, R114): for each length the bytes a row has, what
the decoder reads from them, and that every byte sequence it accepts is one of those. -/

namespace Sys2Proof.Machine

/-! ### The operation select code -/

/-- The codes that select no operation (R66). -/
abbrev IllegalCode (code : Byte) : Prop := code = 0 ∨ 8 < code.toNat

theorem wellFormed_illegal_iff (code : Byte) : (Instr.illegal code).WellFormed = true ↔ IllegalCode code := by
  simp [Instr.WellFormed, IllegalCode, BitVec.lt_def]

theorem decodeOp_illegal {code : Byte} (h : IllegalCode code) : decodeOp code = .illegal code := by
  unfold decodeOp
  rw [if_neg, if_neg, if_neg, if_neg, if_neg, if_neg, if_neg, if_neg] <;>
  · rintro rfl
    exact absurd h (by decide)

/-- A code that selects an operation is that operation's byte, and every other code is illegal (R66). -/
theorem encode_decodeOp (code : Byte) : encode (decodeOp code) = [code] ∧ (decodeOp code).WellFormed = true := by
  by_cases h : IllegalCode code
  · rw [decodeOp_illegal h]
    exact ⟨rfl, (wellFormed_illegal_iff code).mpr h⟩
  · have hcode : code ∈ [0x01#8, 0x02#8, 0x03#8, 0x04#8, 0x05#8, 0x06#8, 0x07#8, 0x08#8] := by
      simp only [List.mem_cons, List.not_mem_nil, or_false]
      rw [IllegalCode, not_or] at h
      bv_omega
    fin_cases hcode <;> exact ⟨rfl, rfl⟩

/-! ### The message ids -/

theorem decodeId_ok {id : Half} {i : Instr} (h : decodeId id = .ok i) :
    encode i = halfBytes id ∧ i.WellFormed = true := by
  unfold decodeId at h
  split_ifs at h with hecho hkeepalive hflight <;> cases h
  · exact ⟨congrArg halfBytes hecho.symm, rfl⟩
  · exact ⟨congrArg halfBytes hkeepalive.symm, rfl⟩
  · exact ⟨congrArg halfBytes hflight.symm, rfl⟩

/-! ### Nine bytes -/

/-- Nine bytes in the pattern of R53 are GRAM_TODRONE where the more special pattern of R107 fits, else GRAM_HEADER. -/
theorem decodeWire72_headerBytes (len : BitVec 13) (low : BitVec 3) (c8 : Byte) (f d : BitVec 1) (kind sub : BitVec 3)
    (id seq : Half) : decodeWire72 (headerBytes len low c8 f d kind sub id seq) =
      if low = 0 ∧ f ++ d = 1#2 ∧ sub = 0 then .ok (.gramTodrone len c8 kind id seq)
      else .ok (.gramHeader len low c8 f d kind sub id seq) := by
  simp [headerBytes_eq, decodeWire72, headerFields, byteAt, connAckPrefix]

/-- The pattern of R53 is every sequence of nine bytes that begins with the magic. -/
theorem exists_headerBytes {b : List Byte} (hl : b.length = 9) (h0 : byteAt b 0 = gramMagic) :
    ∃ len low c8 f d kind sub id seq, b = headerBytes len low c8 f d kind sub id seq := by
  match b, hl with
  | [_, lo, hi, c8, disc, idLo, idHi, seqLo, seqHi], _ =>
    cases h0
    exact ⟨hi ++ lo.extractLsb' 3 5, lo.extractLsb' 0 3, c8, disc.extractLsb' 7 1, disc.extractLsb' 6 1,
      disc.extractLsb' 3 3, disc.extractLsb' 0 3, le16 idLo idHi, le16 seqLo seqHi, by simp [headerBytes_eq]⟩

/-- A GRAM_HEADER term is well-formed where the more special pattern does not fit (log 14). -/
theorem wellFormed_gramHeader_iff (len : BitVec 13) (low : BitVec 3) (c8 : Byte) (f d : BitVec 1) (kind sub : BitVec 3)
    (id seq : Half) : (Instr.gramHeader len low c8 f d kind sub id seq).WellFormed = true ↔
      ¬ (low = 0 ∧ f ++ d = 1#2 ∧ sub = 0) := by
  simp [Instr.WellFormed, directions_eq_one_iff, imp_iff_not_or, or_assoc]

theorem decodeWire72_ok {b : List Byte} {i : Instr} (hl : b.length = 9) (h : decodeWire72 b = .ok i) :
    encode i = b ∧ i.WellFormed = true := by
  by_cases hack : b = connAckPrefix
  · subst hack
    cases h
    exact ⟨rfl, rfl⟩
  · by_cases h0 : byteAt b 0 = gramMagic
    · obtain ⟨len, low, c8, f, d, kind, sub, id, seq, rfl⟩ := exists_headerBytes hl h0
      rw [decodeWire72_headerBytes] at h
      split at h
      · rename_i hspecial
        obtain ⟨rfl, hfd, rfl⟩ := hspecial
        obtain ⟨rfl, rfl⟩ := (directions_eq_one_iff f d).mp hfd
        cases h
        exact ⟨rfl, rfl⟩
      · cases h
        exact ⟨rfl, (wellFormed_gramHeader_iff ..).mpr ‹_›⟩
    · rw [decodeWire72, if_neg hack, if_neg h0] at h
      cases h

/-! ### Eleven bytes -/

theorem encode_gramKeepalive (c8 : Byte) (seq c16 : Half) : encode (.gramKeepalive c8 seq c16) =
    [gramMagic, 0x58, 0x00, c8, 0x60, 0x25, 0x00, lowByte seq, highByte seq, lowByte c16, highByte c16] := rfl

theorem decodeWire88_gramKeepalive (c8 : Byte) (seq c16 : Half) :
    decodeWire88 (encode (.gramKeepalive c8 seq c16)) = .ok (.gramKeepalive c8 seq c16) := by
  simp [decodeWire88, encode_gramKeepalive, byteAt, prefixLength, connReqPrefix]

theorem decodeWire88_hsConnReq (port : Half) : decodeWire88 (encode (.hsConnReq port)) = .ok (.hsConnReq port) := by
  simp [decodeWire88, encode, byteAt, halfBytes, prefixLength, connReqPrefix]

theorem decodeWire88_ok {b : List Byte} {i : Instr} (hl : b.length = 11) (h : decodeWire88 b = .ok i) :
    encode i = b ∧ i.WellFormed = true := by
  unfold decodeWire88 at h
  match b, hl with
  | [b0, b1, b2, c8, b4, b5, b6, seqLo, seqHi, lo, hi], _ =>
    split at h
    · rename_i hprefix
      cases h
      refine ⟨?_, rfl⟩
      change connReqPrefix ++ halfBytes (le16 lo hi) = _
      rw [← hprefix, halfBytes_le16]
      rfl
    · split at h
      · rename_i hpattern
        obtain ⟨hfirst, hid⟩ := hpattern
        cases hfirst
        cases hid
        cases h
        refine ⟨?_, rfl⟩
        change _ ++ halfBytes (le16 seqLo seqHi) ++ halfBytes (le16 lo hi) = _
        rw [halfBytes_le16, halfBytes_le16]
        rfl
      · cases h

/-! ### Twenty-four bytes -/

theorem wellFormed_flightDataPayload_iff (height : Half) (batt cam : Byte) (g2 g13 g21 : List Byte) :
    (Instr.flightDataPayload height batt cam g2 g13 g21).WellFormed = true ↔
      g2.length = 10 ∧ g13.length = 7 ∧ g21.length = 3 := by
  simp [Instr.WellFormed, and_assoc]

theorem encode_flightDataPayload_length {height : Half} {batt cam : Byte} {g2 g13 g21 : List Byte}
    (h : (Instr.flightDataPayload height batt cam g2 g13 g21).WellFormed = true) :
    (encode (.flightDataPayload height batt cam g2 g13 g21)).length = 24 := by
  obtain ⟨h2, h13, h21⟩ := (wellFormed_flightDataPayload_iff ..).mp h
  simp [encode, h2, h13, h21]

theorem decodeWire192_flightDataPayload {height : Half} {batt cam : Byte} {g2 g13 g21 : List Byte}
    (h : (Instr.flightDataPayload height batt cam g2 g13 g21).WellFormed = true) :
    decodeWire192 (encode (.flightDataPayload height batt cam g2 g13 g21)) =
      .flightDataPayload height batt cam g2 g13 g21 := by
  obtain ⟨h2, h13, h21⟩ := (wellFormed_flightDataPayload_iff ..).mp h
  simp [decodeWire192, encode, byteAt, halfBytes, List.drop_append, List.drop_of_length_le, h2, h13, h21]

theorem encode_decodeWire192 {b : List Byte} (hl : b.length = 24) :
    encode (decodeWire192 b) = b ∧ (decodeWire192 b).WellFormed = true := by
  match b, hl with
  | [_, _, _, _, _, _, _, _, _, _, _, _, _, _, _, _, _, _, _, _, _, _, _, _], _ =>
    refine ⟨?_, rfl⟩
    change halfBytes (le16 _ _) ++ _ ++ _ ++ _ ++ _ ++ _ = _
    rw [halfBytes_le16]
    rfl

/-! ### The decoder over all lengths -/

theorem decode_of_length_two {b : List Byte} (h : b.length = 2) :
    decode b = decodeId (le16 (byteAt b 0) (byteAt b 1)) := by
  simp [decode, decodeMessage, h]

theorem decode_of_length_nine {b : List Byte} (h : b.length = 9) : decode b = decodeWire72 b := by
  simp [decode, decodeMessage, h]

theorem decode_of_length_eleven {b : List Byte} (h : b.length = 11) : decode b = decodeWire88 b := by
  simp [decode, decodeMessage, h]

theorem decode_of_length_twentyFour {b : List Byte} (h : b.length = 24) : decode b = .ok (decodeWire192 b) := by
  simp [decode, decodeMessage, h]

/-- Bytes that the decoder accepts have one of the five lengths of the table's formats. -/
theorem length_of_decode_ok {b : List Byte} {i : Instr} (h : decode b = .ok i) :
    b.length ∈ [1, 2, 9, 11, 24] := by
  by_contra hl
  simp only [List.mem_cons, List.not_mem_nil, or_false, not_or] at hl
  obtain ⟨h1, h2, h9, h11, h24⟩ := hl
  rw [decode, if_neg h1, decodeMessage, if_neg h2, if_neg h9, if_neg h11, if_neg h24] at h
  cases h

/-- Settles O1: the decoder of each length reads back what the encoder of each of its rows writes. -/
theorem decodeOfEncodeIsTheRow : Obligations.DecodeOfEncodeIsTheRow := by
  unfold Obligations.DecodeOfEncodeIsTheRow
  intro i hwf
  cases i with
  | crc8 | crc16 | decode | encode | classify | hsreq | dispatch | flightdata => rfl
  | msgConnectAckEcho | msgKeepalive | msgFlightData | hsConnAck => rfl
  | illegal code => exact congrArg _ (decodeOp_illegal ((wellFormed_illegal_iff code).mp hwf))
  | gramHeader len low c8 f d kind sub id seq =>
    exact (decode_of_length_nine rfl).trans
      ((decodeWire72_headerBytes ..).trans (if_neg ((wellFormed_gramHeader_iff ..).mp hwf)))
  | gramTodrone len c8 kind id seq =>
    exact (decode_of_length_nine rfl).trans ((decodeWire72_headerBytes ..).trans (if_pos (by decide)))
  | gramKeepalive c8 seq c16 => exact (decode_of_length_eleven rfl).trans (decodeWire88_gramKeepalive c8 seq c16)
  | hsConnReq port => exact (decode_of_length_eleven rfl).trans (decodeWire88_hsConnReq port)
  | flightDataPayload height batt cam g2 g13 g21 =>
    rw [decode_of_length_twentyFour (encode_flightDataPayload_length hwf), decodeWire192_flightDataPayload hwf]

/-- Settles O2: the decoder of each length accepts only bytes that the encoder writes. -/
theorem recognisedBytesAreTheRowsBytes : Obligations.RecognisedBytesAreTheRowsBytes := by
  unfold Obligations.RecognisedBytesAreTheRowsBytes
  intro b i h
  have hl := length_of_decode_ok h
  simp only [List.mem_cons, List.not_mem_nil, or_false] at hl
  obtain hl | hl | hl | hl | hl := hl
  · obtain ⟨code, rfl⟩ := List.length_eq_one_iff.mp hl
    cases (decode_one_byte code).symm.trans h
    exact encode_decodeOp code
  · obtain ⟨lo, hi, rfl⟩ := List.length_eq_two.mp hl
    obtain ⟨he, hwf⟩ := decodeId_ok ((decode_of_length_two hl).symm.trans h)
    exact ⟨he.trans (halfBytes_le16 lo hi), hwf⟩
  · exact decodeWire72_ok hl ((decode_of_length_nine hl).symm.trans h)
  · exact decodeWire88_ok hl ((decode_of_length_eleven hl).symm.trans h)
  · cases (decode_of_length_twentyFour hl).symm.trans h
    exact encode_decodeWire192 hl

/-- Settles O3: each written-out word is its row's bytes. -/
theorem writtenOutWordsDecode : Obligations.WrittenOutWordsDecode :=
  ⟨decodeOfEncodeIsTheRow .crc8 rfl, decodeOfEncodeIsTheRow .encode rfl, decodeOfEncodeIsTheRow .flightdata rfl,
    decodeOfEncodeIsTheRow (.illegal 0) rfl, decodeOfEncodeIsTheRow .msgFlightData rfl,
    decodeOfEncodeIsTheRow (.gramTodrone 14 0xCB 1 0x1234 0xABCD) rfl,
    decodeOfEncodeIsTheRow (.gramHeader 35 0 0xB9 1 0 1 0 0x0056 1) rfl,
    decodeOfEncodeIsTheRow (.gramKeepalive 0x7C 0 0x956C) rfl, decodeOfEncodeIsTheRow (.hsConnReq 8040) rfl⟩

/-- Settles O4: each field is read back from the bytes of the header that hold it. -/
theorem headerRowFieldsReadBack : Obligations.HeaderRowFieldsReadBack := by
  unfold Obligations.HeaderRowFieldsReadBack
  intro len low c8 f d kind sub id seq b
  have hsize : (le16 (byteAt b 1) (byteAt b 2)).toNat = 8 * len.toNat + low.toNat := sizeField_toNat len low
  refine ⟨rfl, ?_, ?_, rfl, discriminatorOf_bit7 f d kind sub, discriminatorOf_bit6 f d kind sub,
    discriminatorOf_kind f d kind sub, discriminatorOf_subtype f d kind sub, le16_low_high id, le16_low_high seq⟩
  · rw [lengthOf_toNat, hsize]
    omega
  · rw [hsize]
    omega

end Sys2Proof.Machine
end

section
/-! The header that ENCODE builds (R56, R107, R109, R114) and the operation select code as the block runs it (R66). -/

namespace Sys2Proof.Machine

/-! ### ENCODE's header -/

/-- What the 16-bit checksum of an encoded gram covers is a GRAM_TODRONE header and the payload (R106, R107). -/
theorem encodeBody_eq_header_append (c8 : List Byte → Byte) (kind : Byte) (id seq : Half) (p : List Byte) :
    encodeBody c8 kind id seq p = encode (.gramTodrone (BitVec.ofNat 13 (fixedBytes + p.length))
      (c8 (shortHeader (fixedBytes + p.length))) (kind.extractLsb' 0 3) id seq) ++ p := by
  have hshort : shortHeader (fixedBytes + p.length) =
      [gramMagic, sizeLowByte (BitVec.ofNat 13 (fixedBytes + p.length)) 0,
        sizeHighByte (BitVec.ofNat 13 (fixedBytes + p.length))] :=
    congrArg (gramMagic :: ·) (halfBytes_sizeFieldFor _)
  rw [encodeBody, discriminatorFor_eq, hshort]
  rfl

/-- Settles O46: the header is what stands before the payload and the 16-bit checksum. -/
theorem encodeBuildsTheTodroneHeader : Obligations.EncodeBuildsTheTodroneHeader := by
  unfold Obligations.EncodeBuildsTheTodroneHeader
  intro c8 c16 kind id seq p _
  rw [encodeGram, encodeBody_eq_header_append, List.append_assoc]
  exact List.take_left' rfl

/-- Settles O41: the direction bits are 01, so bit 7 is clear and bit 6 is set. -/
theorem encodedDiscriminator : Obligations.EncodedDiscriminator := by
  unfold Obligations.EncodedDiscriminator
  intro kind
  have hlow : (kind &&& 7).extractLsb' 0 3 = kind.extractLsb' 0 3 := by
    rw [BitVec.extractLsb'_and]
    exact BitVec.and_allOnes
  refine ⟨?_, ?_, ?_, ?_⟩
  · rw [discriminatorFor_eq, directionOf, discriminatorOf_bit7, discriminatorOf_bit6]
    rfl
  · rw [discriminatorFor_eq, kindOf, discriminatorOf_kind]
  · rw [discriminatorFor_eq, subtypeOf, discriminatorOf_subtype]
  · rw [discriminatorFor_eq, discriminatorFor_eq, hlow]

/-- Settles O47: with no payload the gram is its header and the 16-bit checksum over it. -/
theorem keepaliveGramBytes : Obligations.KeepaliveGramBytes := by
  unfold Obligations.KeepaliveGramBytes
  intro c8 c16 seq c
  have hbody : encodeBody c8 4 0x0025 seq [] =
      [0xCC, 0x58, 0x00, c, 0x60, 0x25, 0x00, lowByte seq, highByte seq] := rfl
  rw [encodeGram, hbody]
  rfl

/-! ### The operation select code -/

/-- Settles O54: an illegal code does the same in every state. -/
theorem illegalCodeOutcome : Obligations.IllegalCodeOutcome := execIllegal_eq

/-- The codes 5 to 8 select the four auxiliary operations (R66). -/
theorem isAuxiliary_decodeOp {code : Byte} (h5 : 5 ≤ code.toNat) (h8 : code.toNat ≤ 8) :
    isAuxiliary (decodeOp code) = true := by
  have hcode : code ∈ [0x05#8, 0x06#8, 0x07#8, 0x08#8] := by
    simp only [List.mem_cons, List.not_mem_nil, or_false]
    bv_omega
  fin_cases hcode <;> rfl

/-- Settles O53: a code of no operation is the illegal row, and an auxiliary code without HAS_AUX acts as one. -/
theorem operationSelectCode : Obligations.OperationSelectCode := by
  unfold Obligations.OperationSelectCode
  refine ⟨⟨rfl, rfl, rfl, rfl, rfl, rfl, rfl, rfl⟩, fun code s h => ?_⟩
  obtain h0 | h9 | ⟨h5, h8, haux⟩ := h
  · rw [decodeOp_illegal (.inl h0)]
    exact illegalCodeOutcome code s
  · rw [decodeOp_illegal (.inr h9)]
    exact illegalCodeOutcome code s
  · exact exec_of_not_present fun hp => Bool.false_ne_true (haux.symm.trans (hp (isAuxiliary_decodeOp h5 h8)))

end Sys2Proof.Machine
end

section
/-! CLASSIFY and FLIGHTDATA on held bytes (R61, R63, R121, R128), and on the bytes of the rows they are made for. -/

namespace Sys2Proof.Machine

/-- After a wire-format row is placed, its bytes are held at its place, inside BUF. -/
theorem putRow_holds {place : Nat} {row : Instr} {s t : State} (h : putRow place row s = .next t) :
    place + (encode row).length ≤ s.params.bufCap ∧ Holds t.buf place (encode row) := by
  obtain ⟨hin, rfl⟩ := putRow_next h
  exact ⟨hin, Memory.writeBytes_holds s.buf place (encode row)⟩

/-! ### FLIGHTDATA -/

/-- FLIGHTDATA of 24 bytes inside BUF, four of which it reads (R128). -/
theorem execFlightdata_unpacks {s : State} {a n : Half} {lo hi batt cam : Byte} (haux : s.params.hasAux = true)
    (ha : s.operands.start = some a) (hn : s.operands.count = some n) (hin : a.toNat + n.toNat ≤ s.params.bufCap)
    (h24 : n.toNat = 24) (hlo : Memory.read s.buf a.toNat = some lo) (hhi : Memory.read s.buf (a.toNat + 1) = some hi)
    (hbatt : Memory.read s.buf (a.toNat + 12) = some batt) (hcam : Memory.read s.buf (a.toNat + 20) = some cam) :
    execFlightdata s =
      endOk (s.setFlight { height := some (le16 lo hi), batt := some batt, cam := some cam }) := by
  rw [execFlightdata, needsAux_true _ haux, withRange_inside _ ha hn hin, if_neg (not_not.mpr h24),
    withBufByte_some _ (by omega) hlo, withBufByte_some _ (by omega) hhi, withBufByte_some _ (by omega) hbatt,
    withBufByte_some _ (by omega) hcam]

/-- Settles O51: the two checks in their order, and the four bytes read. -/
theorem flightdataOutcome : Obligations.FlightdataOutcome := by
  unfold Obligations.FlightdataOutcome
  refine ⟨rfl, fun s a n haux ha hn => ⟨fun hout => ?_, fun hin hcount => ?_, ?_⟩⟩
  · exact (needsAux_true _ haux).trans (withRange_beyond _ ha hn hout)
  · exact (needsAux_true _ haux).trans ((withRange_inside _ ha hn hin).trans (if_pos hcount))
  · intro lo hi batt cam hin h24 hlo hhi hbatt hcam
    exact execFlightdata_unpacks haux ha hn hin h24 hlo hhi hbatt hcam

/-- If `decode_flight_data` decodes, the payload has 24 bytes and the record is its three named fields (R61). -/
theorem decodeFlightData_ok {p : List Byte} {f : FlightData} (h : decodeFlightData p = .ok f) :
    p.length = 24 ∧ f = { height := le16 (byteAt p 0) (byteAt p 1), battery := byteAt p 12, camera := byteAt p 20 } := by
  unfold decodeFlightData at h
  split at h
  · cases h
  · cases h
    exact ⟨not_not.mp ‹_›, rfl⟩

/-- Settles O52: the four bytes FLIGHTDATA reads are those of the record. -/
theorem flightdataComputesTheRecord : Obligations.FlightdataComputesTheRecord := by
  unfold Obligations.FlightdataComputesTheRecord
  intro s a p f haux ha hn hcap hp hf
  obtain ⟨hl, rfl⟩ := decodeFlightData_ok hf
  exact execFlightdata_unpacks haux ha hn hcap rfl (hp 0 (by omega)) (hp 1 (by omega)) (hp 12 (by omega))
    (hp 20 (by omega))

/-- A well-formed flight-data row is decoded to its own fields (R61). -/
theorem decodeFlightData_flightDataPayload {height : Half} {batt cam : Byte} {g2 g13 g21 : List Byte}
    (h : (Instr.flightDataPayload height batt cam g2 g13 g21).WellFormed = true) :
    decodeFlightData (encode (.flightDataPayload height batt cam g2 g13 g21)) =
      .ok { height := height, battery := batt, camera := cam } := by
  have hrow := decodeWire192_flightDataPayload h
  simp only [decodeWire192, Instr.flightDataPayload.injEq] at hrow
  obtain ⟨hheight, hbatt, hcam, -⟩ := hrow
  rw [decodeFlightData, if_neg (not_not.mpr (encode_flightDataPayload_length h)), hheight, hbatt, hcam]

/-- Settles O59: the placed bytes are a payload that decodes to the row's fields. -/
theorem placedFlightDataUnpacks : Obligations.PlacedFlightDataUnpacks := by
  unfold Obligations.PlacedFlightDataUnpacks
  intro s t height batt cam g2 g13 g21 row hwf haux hstart hcount h
  have hf := exec_frame h
  obtain ⟨hin, hbytes⟩ := putRow_holds (place := 9) h
  rw [encode_flightDataPayload_length hwf] at hin
  exact flightdataComputesTheRecord t 9 _ _ (hf.params ▸ haux) (hf.operands ▸ hstart) (hf.operands ▸ hcount)
    (hf.params ▸ hin) hbytes (decodeFlightData_flightDataPayload hwf)

/-! ### CLASSIFY -/

/-- CLASSIFY where BUF begins with at least nine held bytes tests them for "conn_ack:" (R121). -/
theorem execClassify_holds {s : State} {n : Half} {b : List Byte} (haux : s.params.hasAux = true)
    (hn : s.operands.rlen = some n) (hcap : n.toNat ≤ s.params.bufCap) (hl : 9 ≤ b.length) (hb : Holds s.buf 0 b) :
    execClassify s = endOk (s.setCls (some (if isHandshakeAck b n.toNat then 1 else 0))) := by
  rw [execClassify, needsAux_true _ haux, withReceived_inside _ hn hcap, prefixLength]
  by_cases h9 : n.toNat < 9
  · have hno : isHandshakeAck b n.toNat = false := by simp [isHandshakeAck, h9]
    rw [if_pos h9, hno]
    rfl
  · have htake : isHandshakeAck (b.take 9) n.toNat = isHandshakeAck b n.toNat := by
      simp [isHandshakeAck, List.take_take]
    rw [if_neg h9, withBufBytes_holds _ (by omega) (List.length_take_of_le hl) (hb.take 9), htake]

/-- Bytes that begin with the gram magic are no acknowledgement (R63). -/
theorem isHandshakeAck_of_magic {b : List Byte} (h : byteAt b 0 = gramMagic) (n : Nat) :
    isHandshakeAck b n = false := by
  have hne : b.take 9 ≠ connAckPrefix := fun he => by
    have h0 : byteAt b 0 = 0x63 := byteAt_of_take_eq (b := connAckPrefix) (n := 9) he (by decide)
    exact absurd (h.symm.trans h0) (by decide)
  simp [isHandshakeAck, hne]

/-- Settles O55: the gram begins with the magic. -/
theorem encodedGramIsNoAcknowledgement : Obligations.EncodedGramIsNoAcknowledgement := by
  unfold Obligations.EncodedGramIsNoAcknowledgement
  intro s t e n hp haux h hstatus helen hle u
  obtain ⟨kind, mid, seq, plen, -, -, -, -, ⟨-, rfl⟩ | ⟨p, -, hl, -, hin, rfl⟩⟩ := execEncode_next h
  · cases hstatus
  · cases helen
    have hn : n.toNat ≤ fixedBytes + plen.toNat := hle.trans ((BitVec.toNat_ofNat ..).trans_le (Nat.mod_le _ _))
    have hgram := Memory.writeBytes_holds s.buf 0 (encodeGram s.params.crc8 s.params.crc16 kind mid seq p)
    have hclassify := execClassify_holds (s := u) haux rfl (hn.trans (hl ▸ hin))
      (by rw [encodeGram_length, fixedBytes]; omega) hgram
    rw [isHandshakeAck_of_magic rfl] at hclassify
    exact hclassify

/-- Settles O58: the placed bytes are "conn_ack:". -/
theorem placedAcknowledgementClassifies : Obligations.PlacedAcknowledgementClassifies := by
  unfold Obligations.PlacedAcknowledgementClassifies
  intro s t n haux hn h9 hcap h
  have hf := exec_frame h
  obtain ⟨-, hbytes⟩ := putRow_holds (place := 0) (row := .hsConnAck) h
  have hack : isHandshakeAck (encode .hsConnAck) n.toNat = true := by
    simp [isHandshakeAck, encode, connAckPrefix, h9]
  have hclassify := execClassify_holds (s := t) (hf.params ▸ haux) (hf.operands ▸ hn) (hf.params ▸ hcap) le_rfl hbytes
  rw [hack] at hclassify
  exact hclassify

end Sys2Proof.Machine
end

section
/-! The pseudo-operations (R70, R114): what each operation they issue answers on held bytes, and the host's accesses
around it. -/

namespace Sys2Proof.Machine

/-! ### The operations on held bytes -/

/-- CRC8 of a range inside BUF whose bytes are `bs` (R74). -/
theorem execCrc8_holds {s : State} {a n : Half} {bs : List Byte} (ha : s.operands.start = some a)
    (hn : s.operands.count = some n) (hin : a.toNat + n.toNat ≤ s.params.bufCap) (hl : bs.length = n.toNat)
    (hb : Holds s.buf a.toNat bs) : execCrc8 s = endOk (s.setCrc8Out (some (s.params.crc8 bs))) := by
  rw [execCrc8, withRange_inside _ ha hn hin, withBufBytes_holds _ hin hl hb]

/-- CRC16 of a range inside BUF whose bytes are `bs` (R75). -/
theorem execCrc16_holds {s : State} {a n : Half} {bs : List Byte} (ha : s.operands.start = some a)
    (hn : s.operands.count = some n) (hin : a.toNat + n.toNat ≤ s.params.bufCap) (hl : bs.length = n.toNat)
    (hb : Holds s.buf a.toNat bs) : execCrc16 s = endOk (s.setCrc16Out (some (s.params.crc16 bs))) := by
  rw [execCrc16, withRange_inside _ ha hn hin, withBufBytes_holds _ hin hl hb]

/-- ENCODE of a held payload that MAX_PAYLOAD admits stores the encoded gram at the start of BUF (R107). -/
theorem execEncode_holds {s : State} {kind : Byte} {mid seq plen : Half} {p : List Byte} (hwf : s.params.Wf)
    (hkind : s.operands.kind = some kind) (hmid : s.operands.mid = some mid) (hseq : s.operands.seq = some seq)
    (hplen : s.operands.plen = some plen) (hmax : plen.toNat ≤ s.params.maxPayload) (hl : p.length = plen.toNat)
    (hp : Holds s.pay 0 p) :
    execEncode s = endOk
      ((s.setBuf (Memory.writeBytes s.buf 0 (encodeGram s.params.crc8 s.params.crc16 kind mid seq p))).setElen
        (some (BitVec.ofNat 16 (fixedBytes + plen.toNat)))) := by
  obtain ⟨-, -, hfit, -⟩ := hwf
  have hin : 0 + (encodeGram s.params.crc8 s.params.crc16 kind mid seq p).length ≤ s.params.bufCap := by
    rw [encodeGram_length, hl, fixedBytes]
    omega
  rw [execEncode, hkind, hmid, hseq, hplen]
  simp only [withReg_some]
  rw [if_neg (Nat.not_lt.mpr hmax), withPayBytes_holds _ (by omega) hl hp, putBytes_inside (m := .buf) _ hin]
  rfl

/-- What DECODE answers for each answer of F_decode (R87, R96, R141). -/
def answerDecoded (s : State) : Except GramError Gram → Out
  | .ok g => endOk (s.setGram (gramRegs g))
  | .error e => endWith .gram (statusOfGramError e) s

theorem gramLength_eq (b : List Byte) : gramLength b = (le16 (byteAt b 1) (byteAt b 2)).toNat / 8 :=
  lengthOf_toNat _

/-- F_decode where the total length is sane is settled by the checksums of the bytes that the gram fills (R86, R94). -/
theorem decodeGram_sane {p : Params} {b : List Byte} {n : Nat} (h11 : 11 ≤ gramLength b) (hlen : gramLength b ≤ n)
    (hl : gramLength b ≤ b.length) : decodeGram p.crc8 p.crc16 b n =
      if ChecksumsMatch p (b.take (gramLength b)) then .ok (unpackGram (b.take (gramLength b)))
      else .error .checksumInvalid := by
  have h3 : min 3 (gramLength b) = 3 := by omega
  have hbody : min (gramLength b - 2) (gramLength b) = gramLength b - 2 := by omega
  have hmatch : ChecksumsMatch p (b.take (gramLength b)) ↔ p.crc8 (b.take 3) = byteAt b 3 ∧
      p.crc16 (b.take (gramLength b - 2)) = le16 (byteAt b (gramLength b - 2)) (byteAt b (gramLength b - 1)) := by
    rw [ChecksumsMatch, List.length_take_of_le hl, List.take_take, h3, List.take_take, hbody, byteAt_take (by omega),
      byteAt_take (by omega), byteAt_take (by omega)]
  rw [decodeGram, if_neg (by rw [fixedBytes]; omega), if_neg (by rw [fixedBytes]; omega)]
  simp only [hmatch, ite_and, ite_not]

/-- The checksum tests of a gram of length `len` see the first `len` held bytes. -/
theorem decodeChecked_take {s : State} {b : List Byte} {len : Nat} (h11 : 11 ≤ len) (hl : len ≤ b.length)
    (hcap : len ≤ s.params.bufCap) (hb : Holds s.buf 0 b) : decodeChecked len s =
      if ChecksumsMatch s.params (b.take len) then endOk (s.setGram (gramRegs (unpackGram (b.take len))))
      else endWith .gram .checksumInvalid s := by
  have hfill : (b.take len).length = len := List.length_take_of_le hl
  exact (congrArg (decodeChecked · s) hfill.symm).trans
    (decodeChecked_holds (hfill.symm ▸ h11) (hfill.symm ▸ hcap) (hb.take len))

/-- DECODE of received bytes that all hold values answers as F_decode does (R87). -/
theorem execDecode_eq_decodeGram {s : State} {n : Half} {b : List Byte} (hn : s.operands.rlen = some n)
    (hcap : n.toNat ≤ s.params.bufCap) (hl : b.length = n.toNat) (hb : Holds s.buf 0 b) :
    execDecode s = answerDecoded s (decodeGram s.params.crc8 s.params.crc16 b n.toNat) := by
  by_cases h11 : n.toNat < 11
  · rw [execDecode, withReceived_inside _ hn hcap, decodeGram, if_pos h11, if_pos h11]
    rfl
  · have hsized := execDecode_sized hn hcap (Nat.le_of_not_lt h11) (hb.read (by omega)) (hb.read (by omega))
    rw [← gramLength_eq] at hsized
    by_cases hbad : n.toNat < gramLength b ∨ gramLength b < 11
    · rw [hsized, decodeSized, decodeGram, if_pos hbad, if_neg h11, if_pos hbad]
      rfl
    · obtain ⟨hlen, hmin⟩ : gramLength b ≤ n.toNat ∧ 11 ≤ gramLength b := by omega
      rw [hsized, decodeSized_sane s hmin hlen, decodeChecked_take hmin (by omega) (by omega) hb,
        decodeGram_sane hmin hlen (by omega)]
      split
      · rfl
      · rfl

/-- Either answer of DECODE leaves a STATUS, which is 0 exactly where F_decode accepts (R70). -/
theorem answerDecoded_status (s : State) (r : Except GramError Gram) :
    ∃ t x, answerDecoded s r = .next t ∧ t.status = some x ∧ (x.setWidth 16 = 0 ↔ ∃ g, r = .ok g) := by
  cases r with
  | ok g => exact ⟨_, 0, rfl, rfl, by simp⟩
  | error e => exact ⟨_, _, rfl, rfl, by cases e <;> simp [statusOfGramError, Status.code]⟩

/-! ### The host's accesses -/

/-- A host read of a valued STATUS returns it. -/
theorem readRegister_status {s : State} {x : Byte} (h : s.status = some x) :
    readRegister .status s = .next (s.setHostRead (some (x.setWidth 16))) :=
  withRead_some _ (by decide) (congrArg (Option.map (BitVec.setWidth 16)) h)

/-- KEEPALIVE leaves the keepalive gram with sequence number 0 in BUF (R114). -/
theorem runActions_keepalive {s : State} (hp : s.params.Wf) :
    ∃ m, runActions keepaliveActions s = .next { s with
        operands := { s.operands with
          op := some 4, kind := some 4, mid := some 0x0025, seq := some 0, plen := some 0 }
        status := some 0
        elen := some 11
        buf := m } ∧
      StoredAt s.buf m 0 (encodeGram s.params.crc8 s.params.crc16 4 0x0025 0 []) := by
  have hencode := execEncode_holds (p := []) (s := s.setOperands { s.operands with
    op := some 4, kind := some 4, mid := some 0x0025, seq := some 0, plen := some 0 }) hp rfl rfl rfl rfl
    (Nat.zero_le _) rfl fun k hk => absurd hk (Nat.not_lt_zero k)
  exact ⟨_, congrArg (andThen · (runActions [])) hencode, Memory.writeBytes_storedAt _ _ _⟩

/-- IS_VALID reads 0 exactly where F_decode accepts the received bytes. -/
theorem runActions_isValid {s : State} {n : Half} {b : List Byte} (hn : s.operands.rlen = some n)
    (hcap : n.toNat ≤ s.params.bufCap) (hl : b.length = n.toNat) (hb : Holds s.buf 0 b) :
    ∃ t, runActions isValidActions s = .next t ∧
      (t.hostRead = some 0 ↔ ∃ g, decodeGram s.params.crc8 s.params.crc16 b n.toNat = .ok g) := by
  have hdecode := execDecode_eq_decodeGram (s := s.setOperands { s.operands with op := some 3 }) hn hcap hl hb
  obtain ⟨t, x, ht, hx, hiff⟩ := answerDecoded_status (s.setOperands { s.operands with op := some 3 })
    (decodeGram s.params.crc8 s.params.crc16 b n.toNat)
  refine ⟨t.setHostRead (some (x.setWidth 16)), ?_, (Option.some_inj).trans hiff⟩
  calc runActions isValidActions s
      = andThen (.next t) (runActions [.readReg .status]) :=
        congrArg (andThen · (runActions [.readReg .status])) (hdecode.trans ht)
    _ = .next (t.setHostRead (some (x.setWidth 16))) := congrArg (andThen · (runActions [])) (readRegister_status hx)

/-- Settles O60: each pseudo-operation is the issue of one operation on operands that its other accesses write. -/
theorem pseudoOperations : Obligations.PseudoOperations := by
  unfold Obligations.PseudoOperations
  intro s hp
  have ⟨h11, _, _, _⟩ := hp
  refine ⟨?_, fun b hl hb => ?_, fun n b hn hcap hl hb => ?_, fun n b hn hcap hl hb => runActions_isValid hn hcap hl hb⟩
  · obtain ⟨m, hrun, hstored⟩ := runActions_keepalive hp
    rw [keepaliveGramBytes] at hstored
    exact ⟨m, hrun, hstored⟩
  · have hcrc := execCrc8_holds (s := s.setOperands { s.operands with op := some 1, start := some 0, count := some 3 })
      rfl rfl (show 0 + 3 ≤ s.params.bufCap by omega) hl hb
    exact congrArg (andThen · (runActions [])) hcrc
  · have hn2 : (n - 2).toNat = n.toNat - 2 := by bv_omega
    have hcrc := execCrc16_holds (s := s.setOperands { s.operands with
      op := some 2, start := some 0, count := some (n - 2) }) rfl rfl
      (show 0 + (n - 2).toNat ≤ s.params.bufCap by omega) (hl.trans hn2.symm) hb
    exact congrArg (andThen · (runActions [])) hcrc

end Sys2Proof.Machine
end

section
/-! CRC8 and CRC16 on a range (R74, R75): the two outcomes of the check of START and COUNT. -/

namespace Sys2Proof.Machine

theorem execCrc8_beyond {s : State} {a n : Half} (ha : s.operands.start = some a) (hn : s.operands.count = some n)
    (hout : s.params.bufCap < a.toNat + n.toNat) : execCrc8 s = endWith .crc8 .badOperand s :=
  withRange_beyond _ ha hn hout

theorem execCrc16_beyond {s : State} {a n : Half} (ha : s.operands.start = some a) (hn : s.operands.count = some n)
    (hout : s.params.bufCap < a.toNat + n.toNat) : execCrc16 s = endWith .crc16 .badOperand s :=
  withRange_beyond _ ha hn hout

/-- Settles O24: the range leaves BUF, or its bytes are read. -/
theorem crc8Outcome : Obligations.Crc8Outcome := by
  unfold Obligations.Crc8Outcome
  exact ⟨rfl, fun _ _ _ ha hn => ⟨fun hout => execCrc8_beyond ha hn hout,
    fun _ hin hl hb => execCrc8_holds ha hn hin hl hb⟩⟩

/-- Settles O25: the range leaves BUF, or its bytes are read. -/
theorem crc16Outcome : Obligations.Crc16Outcome := by
  unfold Obligations.Crc16Outcome
  exact ⟨rfl, fun _ _ _ ha hn => ⟨fun hout => execCrc16_beyond ha hn hout,
    fun _ hin hl hb => execCrc16_holds ha hn hin hl hb⟩⟩

end Sys2Proof.Machine
end

section
/-! The default checksums (R76 to R83): both are one reflected shift register, at two widths. Its step is linear, it is
injective because the polynomial has its top bit set, and eight steps on low zero bits are a shift by eight. -/

namespace Sys2Proof.Machine

/-! ### The shift register at any width -/

/-- One bit: shift right, and exclusive-or the polynomial if the bit shifted out is 1 (R77, R80). -/
def reflectedShift {w : Nat} (poly c : BitVec w) : BitVec w := if c.getLsbD 0 then (c >>> 1) ^^^ poly else c >>> 1

/-- One byte, bit-serial (R78, R81). -/
def reflectedByte {w : Nat} (poly c : BitVec w) (b : Byte) : BitVec w := (reflectedShift poly)^[8] (c ^^^ b.setWidth w)

section

variable {w : Nat} {poly : BitVec w}

theorem reflectedShift_linear : Function.Semiconj₂ (reflectedShift poly) (· ^^^ ·) (· ^^^ ·) := by
  intro x y
  simp only [reflectedShift, BitVec.getLsbD_xor, BitVec.ushiftRight_xor_distrib]
  cases x.getLsbD 0 <;> cases y.getLsbD 0
  case false.false => rfl
  case false.true => exact BitVec.xor_assoc _ _ _
  case true.false =>
    change x >>> 1 ^^^ y >>> 1 ^^^ poly = (x >>> 1 ^^^ poly) ^^^ y >>> 1
    ac_rfl
  case true.true =>
    change x >>> 1 ^^^ y >>> 1 = (x >>> 1 ^^^ poly) ^^^ (y >>> 1 ^^^ poly)
    have hcancel : (x >>> 1 ^^^ poly) ^^^ (y >>> 1 ^^^ poly) = (x >>> 1 ^^^ y >>> 1) ^^^ (poly ^^^ poly) := by ac_rfl
    rw [hcancel, BitVec.xor_self, BitVec.xor_zero]

theorem reflectedShift_iterate_linear (n : Nat) :
    Function.Semiconj₂ (reflectedShift poly)^[n] (· ^^^ ·) (· ^^^ ·) := by
  induction n with
  | zero => exact fun _ _ => rfl
  | succ n ih => exact ih.comp reflectedShift_linear

/-- A register that shifts to zero was zero: the polynomial's top bit is one that a shift right cannot leave set. -/
theorem reflectedShift_eq_zero (hpoly : poly.msb = true) {c : BitVec w} (h : reflectedShift poly c = 0) : c = 0 := by
  unfold reflectedShift at h
  split at h
  · have hmsb := congrArg BitVec.msb (BitVec.xor_eq_zero_iff.mp h)
    simp [hpoly] at hmsb
  · rename_i hlow
    refine BitVec.eq_of_getLsbD_eq fun i _ => ?_
    cases i with
    | zero => simpa using hlow
    | succ i =>
      have hbit := congrArg (BitVec.getLsbD · i) h
      simpa [Nat.add_comm 1 i] using hbit

theorem reflectedShift_injective (hpoly : poly.msb = true) : Function.Injective (reflectedShift poly) := by
  intro x y h
  rw [← BitVec.xor_eq_zero_iff]
  exact reflectedShift_eq_zero hpoly ((reflectedShift_linear x y).trans (BitVec.xor_eq_zero_iff.mpr h))

/-- On a register whose low bits are zero, that many steps only shift. -/
theorem reflectedShift_iterate_of_low_zero {n : Nat} {c : BitVec w} (h : ∀ i < n, c.getLsbD i = false) :
    (reflectedShift poly)^[n] c = c >>> n := by
  induction n generalizing c with
  | zero => simp
  | succ n ih =>
    have hstep : reflectedShift poly c = c >>> 1 := if_neg (by simp [h 0 (by omega)])
    rw [Function.iterate_succ_apply, hstep, ih fun i hi => ?_, ← BitVec.shiftRight_add, Nat.add_comm]
    rw [BitVec.getLsbD_ushiftRight]
    exact h _ (by omega)

/-! ### Whole sequences -/

theorem reflectedByte_linear (c d : BitVec w) (a b : Byte) :
    reflectedByte poly (c ^^^ d) (a ^^^ b) = reflectedByte poly c a ^^^ reflectedByte poly d b := by
  have hin : (c ^^^ d) ^^^ (a ^^^ b).setWidth w = (c ^^^ a.setWidth w) ^^^ (d ^^^ b.setWidth w) := by
    rw [BitVec.setWidth_xor]
    ac_rfl
  rw [reflectedByte, hin]
  exact reflectedShift_iterate_linear 8 _ _

theorem foldl_reflectedByte_zipWith {s e : List Byte} (hl : s.length = e.length) (c d : BitVec w) :
    (List.zipWith (· ^^^ ·) s e).foldl (reflectedByte poly) (c ^^^ d) =
      s.foldl (reflectedByte poly) c ^^^ e.foldl (reflectedByte poly) d := by
  induction s generalizing e c d with
  | nil =>
    obtain rfl := List.length_eq_zero_iff.mp hl.symm
    rfl
  | cons a s ih =>
    match e, hl with
    | b :: e, hl =>
      simp only [List.zipWith_cons_cons, List.foldl_cons, reflectedByte_linear]
      exact ih (Nat.succ.inj hl) _ _

theorem reflectedByte_injective_register (hpoly : poly.msb = true) (b : Byte) :
    Function.Injective (reflectedByte poly · b) := fun _ _ h =>
  (BitVec.xor_left_inj _).mp ((reflectedShift_injective hpoly).iterate 8 h)

theorem reflectedByte_injective_byte (hpoly : poly.msb = true) (hw : 8 ≤ w) (c : BitVec w) :
    Function.Injective (reflectedByte poly c) := fun a b h => by
  have hwide : a.setWidth w = b.setWidth w := (BitVec.xor_right_inj _).mp ((reflectedShift_injective hpoly).iterate 8 h)
  have hnarrow := congrArg (BitVec.setWidth 8) hwide
  rwa [BitVec.setWidth_setWidth_of_le _ hw, BitVec.setWidth_setWidth_of_le _ hw, BitVec.setWidth_eq,
    BitVec.setWidth_eq] at hnarrow

theorem foldl_reflectedByte_injective (hpoly : poly.msb = true) (s : List Byte) :
    Function.Injective (s.foldl (reflectedByte poly)) := by
  induction s with
  | nil => exact Function.injective_id
  | cons b s ih => exact ih.comp (reflectedByte_injective_register hpoly b)

theorem oneBit_ne_zero {k : Nat} (h : k < 8) : 1#8 <<< k ≠ 0 := by
  revert k
  decide

/-- A changed bit changes the register at its byte, and what follows keeps the two registers apart (R82 c). -/
theorem foldl_reflectedByte_flipBit_ne (hpoly : poly.msb = true) (hw : 8 ≤ w) {s : List Byte} {k : Nat}
    (hk : k < 8 * s.length) (c : BitVec w) :
    (flipBit s k).foldl (reflectedByte poly) c ≠ s.foldl (reflectedByte poly) c := by
  induction s generalizing k c with
  | nil => exact absurd hk (Nat.not_lt_zero k)
  | cons b s ih =>
    rw [flipBit]
    split
    · rename_i h8
      intro h
      have hbyte := reflectedByte_injective_byte hpoly hw c (foldl_reflectedByte_injective hpoly s h)
      exact oneBit_ne_zero h8 (by simpa using hbyte)
    · exact ih (by rw [List.length_cons] at hk; omega) _

end

/-! ### The two instances -/

theorem crc8Shifts_eq_iterate (n : Nat) (c : Byte) : crc8Shifts n c = (reflectedShift 0x8C#8)^[n] c := by
  induction n generalizing c with
  | zero => rfl
  | succ n ih => exact ih _

theorem crc16Shifts_eq_iterate (n : Nat) (c : Half) : crc16Shifts n c = (reflectedShift 0x8408#16)^[n] c := by
  induction n generalizing c with
  | zero => rfl
  | succ n ih => exact ih _

/-- One look-up of R76 is one byte of the shift register. -/
theorem t8_xor_eq_reflectedByte (c b : Byte) : t8 (c ^^^ b) = reflectedByte 0x8C#8 c b := by
  rw [t8, crc8Shifts_eq_iterate, reflectedByte, BitVec.setWidth_eq]

/-- One byte of R81 is one byte of the shift register. -/
theorem crc16Shifts_xor_eq_reflectedByte (c : Half) (b : Byte) :
    crc16Shifts 8 (c ^^^ b.setWidth 16) = reflectedByte 0x8408#16 c b :=
  crc16Shifts_eq_iterate 8 _

/-- One look-up of R79 is one byte of the shift register: the low byte goes through the table, and the high byte, over
eight zero bits, is only shifted. -/
theorem crc16Byte_eq_reflectedByte : crc16Byte = reflectedByte 0x8408#16 := by
  funext c b
  have hsplit : c ^^^ b.setWidth 16 =
      ((c ^^^ b.setWidth 16).setWidth 8).setWidth 16 ^^^ ((c >>> 8) <<< 8) := by
    refine BitVec.eq_of_getLsbD_eq fun i hi => ?_
    by_cases h8 : i < 8
    · simp [h8, hi]
    · simp [h8, hi, BitVec.getLsbD_of_ge b i (by omega), show 8 + (i - 8) = i by omega]
  have hhigh : (reflectedShift 0x8408#16)^[8] ((c >>> 8) <<< 8) = c >>> 8 := by
    rw [reflectedShift_iterate_of_low_zero fun i hi => by simp [hi]]
    refine BitVec.eq_of_getLsbD_eq fun i hi => ?_
    simpa using BitVec.lt_of_getLsbD
  rw [crc16Byte, t16, crc16Shifts_eq_iterate, reflectedByte]
  conv_rhs => rw [hsplit]
  exact ((reflectedShift_iterate_linear 8 _ _).trans (congrArg _ hhigh)).symm

theorem telloCrc8_eq_foldl (s : List Byte) : telloCrc8 s = s.foldl (reflectedByte 0x8C#8) 0x77 :=
  List.foldl_ext _ _ _ fun c b _ => t8_xor_eq_reflectedByte c b

theorem telloCrc16_eq_foldl (s : List Byte) : telloCrc16 s = s.foldl (reflectedByte 0x8408#16) 0x3692 :=
  congrArg (s.foldl · 0x3692#16) crc16Byte_eq_reflectedByte

/-- A table of 256 entries, looked up at a byte (R77, R80). -/
theorem getD_table {α : Type} (f : Byte → α) (d : α) (i : Byte) :
    ((List.range 256).map fun k => f (BitVec.ofNat 8 k)).getD i.toNat d = f i := by
  have hi : i.toNat < 256 := i.isLt
  simp [List.getD, hi]

/-- Settles O26: an entry of T8 is eight bits of the shift register. -/
theorem telloCrc8TableEqualsBitSerial : Obligations.TelloCrc8TableEqualsBitSerial := by
  unfold Obligations.TelloCrc8TableEqualsBitSerial
  intro s
  refine ⟨rfl, ?_⟩
  simp only [t8Table, getD_table]
  rfl

/-- Settles O27: a byte by an entry of T16 is eight bits of the shift register. -/
theorem telloCrc16TableEqualsBitSerial : Obligations.TelloCrc16TableEqualsBitSerial := by
  unfold Obligations.TelloCrc16TableEqualsBitSerial
  intro s
  have hserial : telloCrc16 s = telloCrc16Serial s :=
    (telloCrc16_eq_foldl s).trans (List.foldl_ext _ _ _ fun c b _ => (crc16Shifts_xor_eq_reflectedByte c b).symm)
  refine ⟨hserial, ?_⟩
  have hindex (x : Half) : (x &&& 0xFF).toNat = (x.setWidth 8).toNat := by
    rw [BitVec.toNat_setWidth, BitVec.toNat_and]
    exact Nat.and_two_pow_sub_one_eq_mod x.toNat 8
  simp only [hindex, t16Table, getD_table]
  exact hserial

/-- Settles O28: the shift register is linear in what it holds and in the bytes it takes in. -/
theorem telloChecksumsAreAffine : Obligations.TelloChecksumsAreAffine := by
  unfold Obligations.TelloChecksumsAreAffine
  intro s e hl
  simp only [telloCrc8_eq_foldl, telloCrc16_eq_foldl, t8_xor_eq_reflectedByte, crc16Byte_eq_reflectedByte]
  exact ⟨foldl_reflectedByte_zipWith hl 0x77 0, foldl_reflectedByte_zipWith hl 0x3692 0⟩

theorem telloCrc8_flipBit_ne {s : List Byte} {k : Nat} (hk : k < 8 * s.length) :
    telloCrc8 (flipBit s k) ≠ telloCrc8 s := by
  rw [telloCrc8_eq_foldl, telloCrc8_eq_foldl]
  exact foldl_reflectedByte_flipBit_ne rfl le_rfl hk _

theorem telloCrc16_flipBit_ne {s : List Byte} {k : Nat} (hk : k < 8 * s.length) :
    telloCrc16 (flipBit s k) ≠ telloCrc16 s := by
  rw [telloCrc16_eq_foldl, telloCrc16_eq_foldl]
  exact foldl_reflectedByte_flipBit_ne rfl (by decide) hk _

/-- Settles O29: the top bit of each polynomial is set. -/
theorem telloChecksumsNoticeEveryBit : Obligations.TelloChecksumsNoticeEveryBit := by
  unfold Obligations.TelloChecksumsNoticeEveryBit
  exact ⟨fun _ _ hk => ⟨telloCrc8_flipBit_ne hk, telloCrc16_flipBit_ne hk⟩,
    fun _ _ _ hk => telloCrc8_flipBit_ne hk, fun _ _ _ hk => telloCrc16_flipBit_ne hk⟩

/-- Settles O30, by running both algorithms. -/
theorem telloCheckValues : Obligations.TelloCheckValues := by
  unfold Obligations.TelloCheckValues
  decide +kernel

end Sys2Proof.Machine
end

section
/-! Single-bit sensitivity of encoded grams (R98): every changed bit makes one of the two checksums wrong, so F_decode
answers an error, and the total length that the changed size field stands for decides which. -/

namespace Sys2Proof.Machine

/-! ### One changed bit -/

theorem flipBit_eq_modify (b : List Byte) (k : Nat) : flipBit b k = b.modify (k / 8) (· ^^^ (1#8 <<< (k % 8))) := by
  induction b generalizing k with
  | nil => simp [flipBit]
  | cons x b ih =>
    rw [flipBit]
    split
    · rename_i h8
      rw [Nat.div_eq_of_lt h8, Nat.mod_eq_of_lt h8, List.modify_zero_cons]
    · rename_i h8
      rw [ih, show k / 8 = (k - 8) / 8 + 1 by omega, show k % 8 = (k - 8) % 8 by omega, List.modify_succ_cons]

@[simp] theorem flipBit_length (b : List Byte) (k : Nat) : (flipBit b k).length = b.length := by
  rw [flipBit_eq_modify, List.length_modify]

theorem flipBit_take (b : List Byte) (k n : Nat) : (flipBit b k).take n = flipBit (b.take n) k := by
  rw [flipBit_eq_modify, flipBit_eq_modify, List.take_modify]

theorem flipBit_beyond {b : List Byte} {k : Nat} (h : 8 * b.length ≤ k) : flipBit b k = b := by
  rw [flipBit_eq_modify]
  exact List.modify_eq_self (by omega)

theorem byteAt_flipBit_same {b : List Byte} {k i : Nat} (hk : k < 8 * b.length) (hi : k / 8 = i) :
    byteAt (flipBit b k) i = byteAt b i ^^^ (1#8 <<< (k % 8)) := by
  subst hi
  rw [byteAt_eq_getElem (by rw [flipBit_length]; omega), byteAt_eq_getElem (by omega)]
  simp only [flipBit_eq_modify, List.getElem_modify_eq]

theorem byteAt_flipBit_other (b : List Byte) {k i : Nat} (hi : k / 8 ≠ i) : byteAt (flipBit b k) i = byteAt b i := by
  rw [byteAt, byteAt, flipBit_eq_modify, List.getD_eq_getElem?_getD, List.getD_eq_getElem?_getD,
    List.getElem?_modify_ne _ _ hi]

theorem byteAt_flipBit_ne {b : List Byte} {k i : Nat} (hk : k < 8 * b.length) (hi : k / 8 = i) :
    byteAt (flipBit b k) i ≠ byteAt b i := by
  rw [byteAt_flipBit_same hk hi]
  intro h
  exact oneBit_ne_zero (Nat.mod_lt k (by decide)) (by simpa using h)

/-! ### The total length after one changed bit -/

theorem le16_xor (lo hi lo' hi' : Byte) : le16 (lo ^^^ lo') (hi ^^^ hi') = le16 lo hi ^^^ le16 lo' hi' :=
  BitVec.xor_append.symm

theorem le16_inj {lo hi lo' hi' : Byte} (h : le16 lo hi = le16 lo' hi') : lo = lo' ∧ hi = hi' :=
  ⟨by simpa using congrArg lowByte h, by simpa using congrArg highByte h⟩

/-- Bit `j` of a byte as a number. -/
theorem oneBit_toNat {j : Nat} (h : j < 8) : (1#8 <<< j).toNat = 2 ^ j := by
  revert j
  decide

/-- The bits of a gram that are the upper thirteen of its size field, the total length (R57). -/
abbrev IsLengthBit (k : Nat) : Prop := 11 ≤ k ∧ k < 24

/-- Bytes of the size field changed by masks change the total length by the masks' number, shifted as the field is. -/
theorem gramLength_xor {b b' : List Byte} {m1 m2 : Byte} (h1 : byteAt b' 1 = byteAt b 1 ^^^ m1)
    (h2 : byteAt b' 2 = byteAt b 2 ^^^ m2) : gramLength b' = gramLength b ^^^ (m1.toNat + 256 * m2.toNat) / 8 := by
  rw [gramLength_eq, gramLength_eq, h1, h2, le16_xor, BitVec.toNat_xor, le16_toNat m1 m2]
  exact Nat.xor_div_two_pow (n := 3)

theorem gramLength_flipBit_sizeField {b : List Byte} {k : Nat} (hk : k < 8 * b.length) (h8 : 8 ≤ k) (h24 : k < 24) :
    gramLength (flipBit b k) = gramLength b ^^^ 2 ^ (k - 8) / 8 := by
  have hbit : (1#8 <<< (k % 8)).toNat = 2 ^ (k % 8) := oneBit_toNat (Nat.mod_lt k (by decide))
  obtain h1 | h2 : k / 8 = 1 ∨ k / 8 = 2 := by omega
  · have hother : byteAt (flipBit b k) 2 = byteAt b 2 ^^^ 0 :=
      (byteAt_flipBit_other b (by omega)).trans BitVec.xor_zero.symm
    rw [gramLength_xor (byteAt_flipBit_same hk h1) hother, hbit, show k % 8 = k - 8 by omega]
    rfl
  · have hother : byteAt (flipBit b k) 1 = byteAt b 1 ^^^ 0 :=
      (byteAt_flipBit_other b (by omega)).trans BitVec.xor_zero.symm
    rw [gramLength_xor hother (byteAt_flipBit_same hk h2), hbit, show k - 8 = 8 + k % 8 by omega, pow_add]
    simp

/-- Changing bit `k` of a byte sequence changes bit `k - 11` of the total length, or no bit of it (R57, R98). -/
theorem gramLength_flipBit {b : List Byte} {k : Nat} (hk : k < 8 * b.length) :
    gramLength (flipBit b k) = if IsLengthBit k then gramLength b ^^^ 2 ^ (k - 11) else gramLength b := by
  obtain hout | hlow | hlen : (k / 8 ≠ 1 ∧ k / 8 ≠ 2) ∨ (8 ≤ k ∧ k < 11) ∨ IsLengthBit k := by omega
  · rw [if_neg (by omega), gramLength, byteAt_flipBit_other b hout.1, byteAt_flipBit_other b hout.2,
      gramLength]
  · have hmask : 2 ^ (k - 8) / 8 = 0 :=
      Nat.div_eq_of_lt (show 2 ^ (k - 8) < 2 ^ 3 from Nat.pow_lt_pow_right (by decide) (by omega))
    rw [if_neg (by omega), gramLength_flipBit_sizeField hk (by omega) (by omega), hmask,
      Nat.xor_zero]
  · have ⟨h11, h24⟩ := hlen
    have hmask : 2 ^ (k - 8) / 8 = 2 ^ (k - 11) := by
      rw [show k - 8 = k - 11 + 3 by omega, pow_add]
      exact Nat.mul_div_cancel _ (by decide)
    rw [if_pos hlen, gramLength_flipBit_sizeField hk (by omega) h24, hmask]

/-! ### The errors of F_decode -/

section

variable {c8 : List Byte → Byte} {c16 : List Byte → Half} {b : List Byte} {n : Nat}

/-- With a wrong checksum F_decode answers an error, SizeMismatch where the total length is not sane (R86). -/
theorem decodeGram_of_checksum_ne (h11 : 11 ≤ n)
    (h : c8 (b.take 3) ≠ byteAt b 3 ∨ c16 (b.take (gramLength b - 2)) ≠
      le16 (byteAt b (gramLength b - 2)) (byteAt b (gramLength b - 1))) :
    decodeGram c8 c16 b n =
      .error (if n < gramLength b ∨ gramLength b < 11 then .sizeMismatch else .checksumInvalid) := by
  rw [decodeGram, if_neg (Nat.not_lt.mpr h11)]
  split
  · rfl
  · split
    · rfl
    · rename_i h8
      rw [if_pos (h.resolve_left h8)]

/-- The byte sequence is one gram with right checksums: its size field stands for its length (R86). -/
structure IsGram (c8 : List Byte → Byte) (c16 : List Byte → Half) (b : List Byte) : Prop where
  long : 11 ≤ b.length
  size : gramLength b = b.length
  crc8 : c8 (b.take 3) = byteAt b 3
  crc16 : c16 (b.take (b.length - 2)) = le16 (byteAt b (b.length - 2)) (byteAt b (b.length - 1))

/-- In the first four bytes of a gram, a changed bit makes the 8-bit checksum wrong (R83, R98). -/
theorem IsGram.crc8_flipBit_ne (hb : IsGram c8 c16 b) (hp : P8 c8) {k : Nat} (hk : k < 32) :
    c8 ((flipBit b k).take 3) ≠ byteAt (flipBit b k) 3 := by
  have ⟨hlong, _, hc8, _⟩ := hb
  have hl : (b.take 3).length = 3 := List.length_take_of_le (by omega)
  rw [flipBit_take]
  by_cases h24 : k < 24
  · rw [byteAt_flipBit_other b (by omega), ← hc8]
    exact hp _ hl k (by omega)
  · rw [flipBit_beyond (by omega), hc8]
    exact (byteAt_flipBit_ne (by omega) (by omega)).symm

/-- A changed bit makes the 16-bit checksum over the bytes that the gram fills wrong (R83, R98). -/
theorem IsGram.crc16_flipBit_ne (hb : IsGram c8 c16 b) (hp : P16 c16) {k : Nat} (hk : k < 8 * b.length) :
    c16 ((flipBit b k).take (b.length - 2)) ≠
      le16 (byteAt (flipBit b k) (b.length - 2)) (byteAt (flipBit b k) (b.length - 1)) := by
  have ⟨hlong, _, _, hc16⟩ := hb
  have hl : (b.take (b.length - 2)).length = b.length - 2 := List.length_take_of_le (by omega)
  rw [flipBit_take]
  by_cases hbody : k < 8 * (b.length - 2)
  · rw [byteAt_flipBit_other b (by omega), byteAt_flipBit_other b (by omega), ← hc16]
    exact hp _ (by omega) k (by omega)
  · rw [flipBit_beyond (by omega), hc16]
    intro h
    obtain ⟨hlo, hhi⟩ := le16_inj h
    obtain hlast | hlast : k / 8 = b.length - 2 ∨ k / 8 = b.length - 1 := by omega
    · exact byteAt_flipBit_ne hk hlast hlo.symm
    · exact byteAt_flipBit_ne hk hlast hhi.symm

/-- A gram with one changed bit is rejected, and the changed total length decides the error (R98). -/
theorem IsGram.decodeGram_flipBit (hb : IsGram c8 c16 b) (hp8 : P8 c8) (hp16 : P16 c16) {k : Nat}
    (hk : k < 8 * b.length) : decodeGram c8 c16 (flipBit b k) b.length =
      .error (if b.length < gramLength (flipBit b k) ∨ gramLength (flipBit b k) < 11 then .sizeMismatch
        else .checksumInvalid) := by
  refine decodeGram_of_checksum_ne hb.long ?_
  by_cases h32 : k < 32
  · exact .inl (hb.crc8_flipBit_ne hp8 h32)
  · have hsize : gramLength (flipBit b k) = b.length := by
      rw [gramLength_flipBit hk, if_neg (by omega), hb.size]
    rw [hsize]
    exact .inr (hb.crc16_flipBit_ne hp16 hk)

end

/-- What ENCODE builds is a gram (R106, R112). -/
theorem isGram_encodeGram (c8 : List Byte → Byte) (c16 : List Byte → Half) (kind : Byte) (id seq : Half)
    {p : List Byte} (hp : p.length ≤ 8180) : IsGram c8 c16 (encodeGram c8 c16 kind id seq p) where
  long := by
    rw [encodeGram_length, fixedBytes]
    omega
  size := by
    have hfield : lengthOf (sizeFieldFor (fixedBytes + p.length)) = BitVec.ofNat 16 (fixedBytes + p.length) :=
      lengthOf_sizeFieldFor (by rw [fixedBytes]; omega)
    have hlength : gramLength (encodeGram c8 c16 kind id seq p) =
        (lengthOf (sizeFieldFor (fixedBytes + p.length))).toNat :=
      congrArg (fun f => (lengthOf f).toNat) (le16_low_high _)
    rw [hlength, hfield, encodeGram_length, BitVec.toNat_ofNat, fixedBytes]
    omega
  crc8 := rfl
  crc16 := by
    have hbody : (encodeGram c8 c16 kind id seq p).length - 2 = (encodeBody c8 kind id seq p).length := by
      rw [encodeGram_length, encodeBody_length, fixedBytes]
      omega
    have hlast : (encodeGram c8 c16 kind id seq p).length - 1 = (encodeBody c8 kind id seq p).length + 1 := by
      rw [encodeGram_length, encodeBody_length, fixedBytes]
      omega
    rw [hbody, hlast, encodeGram, List.take_left, byteAt_append_right le_rfl,
      byteAt_append_right (Nat.le_add_right _ 1), Nat.sub_self, Nat.add_sub_cancel_left]
    exact (le16_low_high _).symm

/-- Settles O45: the changed total length decides the error, and a bit outside it leaves it as it was, which is sane. -/
theorem singleBitChangeRejected : Obligations.SingleBitChangeRejected := by
  unfold Obligations.SingleBitChangeRejected
  intro c8 c16 hp8 hp16 kind id seq p k hp hk len len'
  have hb := isGram_encodeGram c8 c16 kind id seq hp
  have hl : (encodeGram c8 c16 kind id seq p).length = len := encodeGram_length ..
  have hdecode := hb.decodeGram_flipBit hp8 hp16 (k := k) (by omega)
  have hlength := gramLength_flipBit (b := encodeGram c8 c16 kind id seq p) (k := k) (by omega)
  rw [hb.size, hl] at hlength
  rw [hl, hlength] at hdecode
  refine hdecode.trans (congrArg _ (if_congr ?_ rfl rfl))
  by_cases hsize : IsLengthBit k
  · rw [if_pos hsize]
    exact ⟨fun h => ⟨hsize.1, hsize.2, h⟩, fun h => h.2.2⟩
  · rw [if_neg hsize]
    omega

end Sys2Proof.Machine
end

section
/-! DECODE's checks before the checksums (R88, R89, R104), its independence of the state around it (R99), and F_decode on
a gram with bytes after it (R86, R94, R112). -/

namespace Sys2Proof.Machine

/-! ### The checks of RLEN and of the total length -/

theorem execDecode_beyond {s : State} {n : Half} (hn : s.operands.rlen = some n) (hout : s.params.bufCap < n.toNat) :
    execDecode s = endWith .gram .badOperand s :=
  withReceived_beyond _ hn hout

theorem execDecode_short {s : State} {n : Half} (hn : s.operands.rlen = some n) (hcap : n.toNat ≤ s.params.bufCap)
    (hshort : n.toNat < 11) : execDecode s = endWith .gram .tooShort s := by
  rw [execDecode, withReceived_inside _ hn hcap, if_pos hshort]

/-- Settles O32: the check of RLEN comes first. -/
theorem decodeBeyondCapacity : Obligations.DecodeBeyondCapacity := by
  unfold Obligations.DecodeBeyondCapacity
  intro s n hn hout
  exact execDecode_beyond hn hout

/-- Settles O33: every build has room for ten bytes, and their number is checked before one is read. -/
theorem decodeTooShort : Obligations.DecodeTooShort := by
  unfold Obligations.DecodeTooShort
  intro s n hp hn hshort
  obtain ⟨hcap, -, -, -⟩ := hp
  exact execDecode_short hn (by omega) hshort

/-- Past the check of the total length DECODE ends with OK or ChecksumInvalid (R87, R90). -/
theorem decodeChecked_status {len : Nat} {s t : State} (h : decodeChecked len s = .next t) :
    t.status = some Status.ok.code ∨ t.status = some Status.checksumInvalid.code := by
  obtain rfl | ⟨_, _, _, -, -, -, -, -, rfl⟩ := decodeChecked_next h
  · exact .inr rfl
  · exact .inl rfl

/-- Settles O34: the check of the total length ends DECODE, or leaves it to the checksum tests. -/
theorem decodeSizeMismatch : Obligations.DecodeSizeMismatch := by
  unfold Obligations.DecodeSizeMismatch
  intro s n lo hi hn hcap h11 hlo hhi
  have hsized := execDecode_sized hn hcap h11 hlo hhi
  refine ⟨fun hbad => hsized.trans (if_pos hbad), fun t hlen hmin h => ?_⟩
  have hchecked := (hsized.trans (decodeSized_sane s hmin hlen)).symm.trans h
  obtain hok | hinvalid := decodeChecked_status hchecked
  · rw [hok]
    decide
  · rw [hinvalid]
    decide

/-! ### The device and F_decode -/

/-- Settles O36: the two answers of F_decode. -/
theorem decodeComputesFDecode : Obligations.DecodeComputesFDecode := by
  unfold Obligations.DecodeComputesFDecode
  intro s n b hn hcap hl hb
  have hdecode := execDecode_eq_decodeGram hn hcap hl hb
  exact ⟨fun e he => hdecode.trans (congrArg (answerDecoded s) he),
    fun g hg => hdecode.trans (congrArg (answerDecoded s) hg)⟩

/-! ### DECODE in another state -/

/-- What DECODE answers, given in the state `s'`: the STATUS and the `G_*` registers of a next state are put into `s'`. -/
def answerIn (s' : State) : Out → Out
  | .next t => .next { s' with status := t.status, gram := t.gram }
  | .fault f => .fault f
  | .refused r => .refused r

section

variable {s s' : State}

@[simp] theorem answerIn_endWith (x : Status) : answerIn s' (endWith .gram x s) = endWith .gram x s' := rfl

@[simp] theorem answerIn_endOk (g : GramRegs) : answerIn s' (endOk (s.setGram g)) = endOk (s'.setGram g) := rfl

theorem answerIn_withReceived (hp : s'.params = s.params) (hr : s'.operands.rlen = s.operands.rlen) (k : Nat → Out) :
    answerIn s' (withReceived .gram s k) = withReceived .gram s' fun n => answerIn s' (k n) := by
  rw [withReceived, withReceived, hp, hr]
  cases s.operands.rlen with
  | none => rfl
  | some n => exact apply_ite (answerIn s') _ _ _

theorem answerIn_withBufBytes (hp : s'.params = s.params) (hb : s'.buf = s.buf) (a n : Nat) (k : List Byte → Out) :
    answerIn s' (withBytes .buf a n s k) = withBytes .buf a n s' fun bs => answerIn s' (k bs) := by
  rw [withBytes, withBytes, mem_buf, mem_buf, hp, hb, apply_ite (answerIn s')]
  cases Memory.readBytes s.buf a n with
  | ok bs => rfl
  | error i => rfl

theorem answerIn_withBufByte (hp : s'.params = s.params) (hb : s'.buf = s.buf) (i : Nat) (k : Byte → Out) :
    answerIn s' (withByte .buf i s k) = withByte .buf i s' fun b => answerIn s' (k b) :=
  answerIn_withBufBytes hp hb i 1 _

theorem answerIn_decodeChecked (hp : s'.params = s.params) (hb : s'.buf = s.buf) (len : Nat) :
    answerIn s' (decodeChecked len s) = decodeChecked len s' := by
  simp only [decodeChecked, answerIn_withBufBytes hp hb, answerIn_withBufByte hp hb, apply_ite (answerIn s'),
    answerIn_endWith, answerIn_endOk, hp]

/-- DECODE answers alike in two states of one build that agree on RLEN and BUF (R99). -/
theorem answerIn_execDecode (hp : s'.params = s.params) (hr : s'.operands.rlen = s.operands.rlen)
    (hb : s'.buf = s.buf) : answerIn s' (execDecode s) = execDecode s' := by
  simp only [execDecode, decodeSized, answerIn_withReceived hp hr, answerIn_withBufByte hp hb,
    apply_ite (answerIn s'), answerIn_endWith, answerIn_decodeChecked hp hb]

end

/-- Settles O38: DECODE keeps RLEN and BUF, so its own next state is one of the states in which it answers alike. -/
theorem decodeIdempotent : Obligations.DecodeIdempotent := by
  unfold Obligations.DecodeIdempotent
  intro s t h
  have hf := exec_frame h
  have hagain : ∀ s' : State, s'.params = s.params → s'.operands.rlen = s.operands.rlen → s'.buf = s.buf →
      exec .decode s' = .next { s' with status := t.status, gram := t.gram } := fun s' hp hr hb =>
    (answerIn_execDecode hp hr hb).symm.trans (congrArg (answerIn s') h)
  exact ⟨hagain t hf.params (congrArg OperandRegs.rlen hf.operands) (hf.buf rfl), hf.buf rfl, hf.pay, hagain⟩

/-! ### F_decode on a gram with bytes after it -/

section

variable {c8 : List Byte → Byte} {c16 : List Byte → Half} {b : List Byte} {n : Nat}

/-- F_decode accepts a gram that the received bytes begin with, and unpacks it alone (R86, R94). -/
theorem IsGram.decodeGram_append (hb : IsGram c8 c16 b) (after : List Byte) (hn : b.length ≤ n) :
    decodeGram c8 c16 (b ++ after) n = .ok (unpackGram b) := by
  have ⟨hlong, hsize, hc8, hc16⟩ := hb
  have hlength : gramLength (b ++ after) = b.length := by
    rw [gramLength, byteAt_append_left (by omega), byteAt_append_left (by omega)]
    exact hsize
  rw [decodeGram, hlength, List.take_left, List.take_append_of_le_length (by omega),
    List.take_append_of_le_length (by omega), byteAt_append_left (by omega), byteAt_append_left (by omega),
    byteAt_append_left (by omega), if_neg (by rw [fixedBytes]; omega), if_neg (by rw [fixedBytes]; omega),
    if_neg (not_not.mpr hc8), if_neg (not_not.mpr hc16)]

/-- What F_decode accepts begins with a gram, and the answer is that gram unpacked (R86). -/
theorem exists_isGram_of_decodeGram_ok {g : Gram} (hn : n ≤ b.length) (h : decodeGram c8 c16 b n = .ok g) :
    ∃ a after, b = a ++ after ∧ IsGram c8 c16 a ∧ g = unpackGram a := by
  obtain ⟨-, hlen, hmin, hc8, hc16, rfl⟩ := decodeGram_ok h
  have hl : (b.take (gramLength b)).length = gramLength b := List.length_take_of_le (by omega)
  refine ⟨_, _, (List.take_append_drop (gramLength b) b).symm, ?_, rfl⟩
  constructor
  case long => exact hmin.trans_eq hl.symm
  case size => rw [hl, gramLength, byteAt_take (by omega), byteAt_take (by omega), gramLength]
  case crc8 => rwa [byteAt_take (by omega), List.take_take, min_eq_left (by omega)]
  case crc16 =>
    rwa [hl, byteAt_take (by omega), byteAt_take (by omega), List.take_take, min_eq_left (Nat.sub_le _ 2)]

end

/-- Settles O37: the gram that one byte sequence begins with is the one that the other begins with. -/
theorem trailingBytesIgnored : Obligations.TrailingBytesIgnored := by
  unfold Obligations.TrailingBytesIgnored
  intro c8 c16 b b' n n' g hn _ h hsize htake
  obtain ⟨a, after, rfl, ha, rfl⟩ := exists_isGram_of_decodeGram_ok hn h
  have hl : (unpackGram a).size.toNat = a.length := ha.size
  rw [hl] at hsize htake
  rw [List.take_left] at htake
  rw [← List.take_append_drop a.length b', htake]
  exact ha.decodeGram_append _ hsize

/-! ### F_decode of an encoded gram -/

theorem discriminatorFor_eq_or (kind : Byte) :
    discriminatorFor kind = 0x40#8 ||| ((kind.extractLsb' 0 3).setWidth 8 <<< 3) := by
  rw [discriminatorFor]
  congr 1
  refine BitVec.eq_of_getLsbD_eq fun i hi => ?_
  simp only [BitVec.getLsbD_and, BitVec.getLsbD_shiftLeft, BitVec.getLsbD_setWidth, BitVec.getLsbD_extractLsb']
  interval_cases i <;> simp

/-- The size field of a length is 8 times the length (R57). -/
theorem sizeFieldFor_eq_ofNat (n : Nat) : sizeFieldFor n = BitVec.ofNat 16 (8 * n) := by
  apply BitVec.eq_of_toNat_eq
  rw [sizeFieldFor, BitVec.toNat_shiftLeft, BitVec.toNat_ofNat, BitVec.toNat_ofNat, Nat.shiftLeft_eq]
  omega

/-- The payload of an encoded gram stands between its header and the 16-bit checksum (R106). -/
theorem unpackGram_encodeGram_payload (c8 : List Byte → Byte) (c16 : List Byte → Half) (kind : Byte) (id seq : Half)
    (p : List Byte) : (unpackGram (encodeGram c8 c16 kind id seq p)).payload = p := by
  have hbody : (encodeGram c8 c16 kind id seq p).length - 2 = (encodeBody c8 kind id seq p).length := by
    rw [encodeGram_length, encodeBody_length, fixedBytes]
    omega
  rw [unpackGram, hbody, encodeGram, List.take_left, encodeBody_eq_header_append]
  exact List.drop_left' rfl

/-- Settles O42: what ENCODE builds is a gram, and each field of it unpacked is the one that went in. -/
theorem decodeUndoesEncode : Obligations.DecodeUndoesEncode := by
  unfold Obligations.DecodeUndoesEncode
  intro c8 c16 kind id seq p after n hp hn _ g sf
  have hg : IsGram c8 c16 g := isGram_encodeGram c8 c16 kind id seq hp
  have hl : g.length = 11 + p.length := encodeGram_length ..
  have hsf : sizeFieldFor (11 + p.length) = sf := sizeFieldFor_eq_ofNat _
  have hfield : le16 (byteAt g 1) (byteAt g 2) = sf := (le16_low_high _).trans hsf
  have hcrc8 : byteAt g 3 = c8 [0xCC, lowByte sf, highByte sf] := congrArg (fun f => c8 (gramMagic :: halfBytes f)) hsf
  have hbody : g.length - 2 = 9 + p.length := by omega
  obtain ⟨hdirection, hkind, hsubtype, -⟩ := encodedDiscriminator kind
  rw [hg.decodeGram_append after (hl.trans_le hn), ← discriminatorFor_eq_or, ← lengthOf_sizeFieldFor (by omega), hsf,
    Except.ok.injEq, Gram.mk.injEq, ← hbody]
  exact ⟨rfl, hfield, congrArg lengthOf hfield, hcrc8, rfl, hdirection, hkind, hsubtype, le16_low_high id,
    le16_low_high seq, unpackGram_encodeGram_payload .., hg.crc16.symm⟩

end Sys2Proof.Machine
end

section
/-! The bytes of an encoded gram (R106, R108), ENCODE on the device (R107, R111, R112), and the grams that ENCODE makes
(R113). -/

namespace Sys2Proof.Machine

/-! ### The bytes of an encoded gram -/

theorem discriminatorOf_toNat (f d : BitVec 1) (kind sub : BitVec 3) :
    (discriminatorOf f d kind sub).toNat = 128 * f.toNat + 64 * d.toNat + 8 * kind.toNat + sub.toNat := by
  rw [discriminatorOf, BitVec.toNat_append, BitVec.toNat_append, BitVec.toNat_append,
    ← Nat.shiftLeft_add_eq_or_of_lt d.isLt, ← Nat.shiftLeft_add_eq_or_of_lt kind.isLt,
    ← Nat.shiftLeft_add_eq_or_of_lt sub.isLt]
  omega

/-- The discriminator that ENCODE builds is 0x40 with the low three bits of KIND in bits 5 to 3 (R56). -/
theorem discriminatorFor_toNat (kind : Byte) : (discriminatorFor kind).toNat = 64 + 8 * (kind.toNat % 8) := by
  have hkind : (kind.extractLsb' 0 3).toNat = kind.toNat % 8 := BitVec.extractLsb'_toNat ..
  rw [discriminatorFor_eq, discriminatorOf_toNat, hkind]
  rfl

/-- The payload stands at offset 9 of an encoded gram (R106). -/
theorem byteAt_encodeGram_payload {c8 : List Byte → Byte} {c16 : List Byte → Half} {kind : Byte} {id seq : Half}
    {p : List Byte} {k : Nat} (hk : k < p.length) : byteAt (encodeGram c8 c16 kind id seq p) (9 + k) = byteAt p k := by
  rw [encodeGram, byteAt_append_left (by rw [encodeBody_length]; omega), encodeBody_eq_header_append]
  exact (byteAt_append_right (Nat.le_add_right 9 k)).trans (congrArg (byteAt p) (Nat.add_sub_cancel_left 9 k))

/-- Settles O40: two bytes that hold a 16-bit value low byte first give its number, and the 16-bit checksum is right
because the bytes are a gram. -/
theorem encodedBytesAreTheFields : Obligations.EncodedBytesAreTheFields := by
  unfold Obligations.EncodedBytesAreTheFields
  intro c8 c16 kind id seq p hp o n
  have hg : IsGram c8 c16 o := isGram_encodeGram c8 c16 kind id seq hp
  have hl : o.length = 11 + n := encodeGram_length ..
  have hsize : le16 (byteAt o 1) (byteAt o 2) = BitVec.ofNat 16 (8 * (11 + n)) :=
    (le16_low_high _).trans (sizeFieldFor_eq_ofNat _)
  have hid : le16 (byteAt o 5) (byteAt o 6) = id := le16_low_high id
  have hseq : le16 (byteAt o 7) (byteAt o 8) = seq := le16_low_high seq
  have hbody : o.length - 2 = 9 + n := by omega
  have hlast : o.length - 1 = 10 + n := by omega
  refine ⟨hl, rfl, ?_, rfl, discriminatorFor_toNat kind, ?_, ?_, fun k => byteAt_encodeGram_payload, ?_⟩
  · rw [← le16_toNat, hsize, BitVec.toNat_ofNat]
    omega
  · rw [← le16_toNat, hid]
  · rw [← le16_toNat, hseq]
  · rw [← le16_toNat, ← hbody, ← hlast, ← hg.crc16]

/-! ### ENCODE on the device -/

/-- ENCODE of a payload beyond MAX_PAYLOAD is BadOperand (R107). -/
theorem execEncode_beyond {s : State} {kind : Byte} {mid seq plen : Half} (hkind : s.operands.kind = some kind)
    (hmid : s.operands.mid = some mid) (hseq : s.operands.seq = some seq) (hplen : s.operands.plen = some plen)
    (hmax : s.params.maxPayload < plen.toNat) : execEncode s = endWith .elen .badOperand s := by
  rw [execEncode, hkind, hmid, hseq, hplen]
  simp only [withReg_some]
  exact if_pos hmax

/-- Settles O39: the gram is stored from the start of BUF, and a store changes its own bytes alone. -/
theorem encodeOutcome : Obligations.EncodeOutcome := by
  unfold Obligations.EncodeOutcome
  refine ⟨rfl, fun s kind mid seq plen hkind hmid hseq hplen => ⟨execEncode_beyond hkind hmid hseq hplen, ?_⟩⟩
  intro p hwf hmax hl hp
  exact ⟨_, execEncode_holds hwf hkind hmid hseq hplen hmax hl hp, Memory.writeBytes_storedAt ..⟩

/-- Settles O43: what ENCODE stored is a gram of length ELEN, and DECODE of that many bytes accepts it (O31). -/
theorem encodeThenDecodeOnTheDevice : Obligations.EncodeThenDecodeOnTheDevice := by
  unfold Obligations.EncodeThenDecodeOnTheDevice
  intro s t e ⟨_, hbuf, _, h8180⟩ h hok helen
  obtain ⟨kind, mid, seq, plen, hkind, hmid, hseq, hplen, ⟨_, rfl⟩ | ⟨p, hmax, hl, hp, hcap, rfl⟩⟩ := execEncode_next h
  · cases hok
  · cases helen
    let g := encodeGram s.params.crc8 s.params.crc16 kind mid seq p
    have hg : IsGram s.params.crc8 s.params.crc16 g := isGram_encodeGram _ _ kind mid seq (by omega)
    have hlen : g.length = 11 + p.length := encodeGram_length ..
    have helen : (BitVec.ofNat 16 (fixedBytes + plen.toNat)).toNat = g.length := by
      rw [BitVec.toNat_ofNat, fixedBytes]
      omega
    have hholds : Holds (Memory.writeBytes s.buf 0 g) 0 g := Memory.writeBytes_holds s.buf 0 g
    obtain ⟨-, hkindBits, -, -⟩ := encodedDiscriminator kind
    have hpayload : BitVec.ofNat 16 (g.length - 11) = plen := by
      rw [hlen, hl, Nat.add_sub_cancel_left, BitVec.ofNat_toNat, BitVec.setWidth_eq]
    refine ⟨_, decodeOfAValidGram _ _ g rfl (helen.trans_le (hlen.trans_le hcap)) helen.ge hg.long hholds
      ((gramLength_eq g).symm.trans hg.size) hg.crc8 hg.crc16, rfl, ?_, ?_, ?_, ?_, ?_⟩
    · rw [hkind]
      exact congrArg some hkindBits
    · exact (congrArg some (le16_low_high mid)).trans hmid.symm
    · exact (congrArg some (le16_low_high seq)).trans hseq.symm
    · exact (congrArg some hpayload).trans hplen.symm
    · intro n hn k hk
      obtain rfl : plen = n := Option.some.inj (hplen.symm.trans hn)
      have hread := hholds.read (i := 9 + k) (by omega)
      rw [byteAt_encodeGram_payload (by omega), ← hp.read (by omega)] at hread
      exact hread

/-! ### The grams that ENCODE makes -/

/-- Bytes that begin with the magic and are as many as a gram needs are a header, a payload and a 16-bit value (R45). -/
theorem exists_headerBytes_append {b : List Byte} (hl : 11 ≤ b.length) (h0 : byteAt b 0 = gramMagic) :
    ∃ len low c f d kind sub id seq p v, b = headerBytes len low c f d kind sub id seq ++ p ++ halfBytes v := by
  have htake : (b.take (b.length - 2)).take 9 = b.take 9 := by
    rw [List.take_take, min_eq_left (by omega)]
  obtain ⟨len, low, c, f, d, kind, sub, id, seq, hheader⟩ :=
    exists_headerBytes (b := b.take 9) (List.length_take_of_le (by omega)) ((byteAt_take (by decide)).trans h0)
  refine ⟨len, low, c, f, d, kind, sub, id, seq, (b.take (b.length - 2)).drop 9,
    le16 (byteAt b (b.length - 2)) (byteAt b (b.length - 1)), ?_⟩
  rw [← hheader, halfBytes_le16, ← htake, List.take_append_drop, take_append_last_two (by omega)]

/-- The three low bits of a size field are those of its low byte (R57). -/
theorem sizeField_low (len : BitVec 13) (low : BitVec 3) (hi : Byte) :
    (le16 (sizeLowByte len low) hi).extractLsb' 0 3 = low :=
  (BitVec.extractLsb'_append_eq_of_add_le (by decide)).trans (sizeLowByte_low len low)

@[simp] theorem headerBytes_length (len : BitVec 13) (low : BitVec 3) (c : Byte) (f d : BitVec 1)
    (kind sub : BitVec 3) (id seq : Half) : (headerBytes len low c f d kind sub id seq).length = 9 := rfl

/-- The total length of bytes that begin with a header is the header's (R53, R57). -/
theorem gramLength_headerBytes_append (len : BitVec 13) (low : BitVec 3) (c : Byte) (f d : BitVec 1)
    (kind sub : BitVec 3) (id seq : Half) (rest : List Byte) :
    gramLength (headerBytes len low c f d kind sub id seq ++ rest) = len.toNat := by
  have hfield : gramLength (headerBytes len low c f d kind sub id seq ++ rest) =
      (le16 (sizeLowByte len low) (sizeHighByte len)).toNat / 8 := gramLength_eq _
  rw [hfield, sizeField_toNat]
  omega

theorem extractLsb'_setWidth_kind (kind : BitVec 3) : (kind.setWidth 8 : Byte).extractLsb' 0 3 = kind := by
  rw [← BitVec.setWidth_eq_extractLsb' (by decide), BitVec.setWidth_setWidth_of_le _ (by decide), BitVec.setWidth_eq]

section

variable {c8 : List Byte → Byte} {c16 : List Byte → Half}

/-- A gram that ends in `v` has `v` for the 16-bit checksum of the bytes before it (R86). -/
theorem IsGram.crc16_of_append {body : List Byte} {v : Half} (hb : IsGram c8 c16 (body ++ halfBytes v)) :
    c16 body = v := by
  have h := hb.crc16
  have hl : (body ++ halfBytes v).length = body.length + 2 := List.length_append
  have hlast : body.length + 2 - 1 - body.length = 1 := by omega
  rw [hl, Nat.add_sub_cancel, List.take_left, byteAt_append_right le_rfl, byteAt_append_right (by omega), Nat.sub_self,
    hlast] at h
  exact h.trans (le16_low_high v)

/-- A gram with a GRAM_TODRONE header is what ENCODE makes of its fields: its length gives the size field, and the two
checksums are the recomputed ones (R106, R113). -/
theorem IsGram.eq_encodeGram {len : BitVec 13} {c : Byte} {kind : BitVec 3} {id seq v : Half} {p : List Byte}
    (hb : IsGram c8 c16 (headerBytes len 0 c 0 1 kind 0 id seq ++ p ++ halfBytes v)) :
    headerBytes len 0 c 0 1 kind 0 id seq ++ p ++ halfBytes v = encodeGram c8 c16 (kind.setWidth 8) id seq p := by
  have hlen : len = BitVec.ofNat 13 (fixedBytes + p.length) := by
    have hsize := hb.size
    rw [List.append_assoc, gramLength_headerBytes_append, List.length_append, List.length_append, headerBytes_length,
      halfBytes_length] at hsize
    apply BitVec.eq_of_toNat_eq
    rw [BitVec.toNat_ofNat, fixedBytes]
    omega
  have hcrc8 : c8 (shortHeader (fixedBytes + p.length)) = c := by
    rw [shortHeader, halfBytes_sizeFieldFor, ← hlen]
    exact hb.crc8
  have hbody : encodeBody c8 (kind.setWidth 8) id seq p = headerBytes len 0 c 0 1 kind 0 id seq ++ p := by
    rw [encodeBody_eq_header_append, extractLsb'_setWidth_kind, hcrc8, ← hlen, encode]
  rw [encodeGram, hbody, hb.crc16_of_append]

/-- Encoding the unpacked fields of an encoded gram gives that gram again: the bits of KIND above the low three have no
effect (R56, R106). -/
theorem encodeGram_unpackGram {kind : Byte} {id seq : Half} {p : List Byte} {g : Gram}
    (hg : unpackGram (encodeGram c8 c16 kind id seq p) = g) :
    encodeGram c8 c16 (g.kind.setWidth 8) g.id g.sequence g.payload = encodeGram c8 c16 kind id seq p := by
  subst hg
  obtain ⟨-, hkindBits, -, -⟩ := encodedDiscriminator kind
  have hkind : (unpackGram (encodeGram c8 c16 kind id seq p)).kind = kind.extractLsb' 0 3 := hkindBits
  have hid : (unpackGram (encodeGram c8 c16 kind id seq p)).id = id := le16_low_high id
  have hseq : (unpackGram (encodeGram c8 c16 kind id seq p)).sequence = seq := le16_low_high seq
  rw [hkind, hid, hseq, unpackGram_encodeGram_payload, encodeGram, encodeGram, encodeBody_eq_header_append,
    encodeBody_eq_header_append, extractLsb'_setWidth_kind]

end

/-- Settles O44: the four conditions make the header of the decoded gram a GRAM_TODRONE row. -/
theorem encodeRebuildsACanonicalGram : Obligations.EncodeRebuildsACanonicalGram := by
  unfold Obligations.EncodeRebuildsACanonicalGram
  intro c8 c16 b n g hn hdecode hmagic hdirections hsubtype hlow
  obtain ⟨a, after, rfl, ha, rfl⟩ := exists_isGram_of_decodeGram_ok hn hdecode
  have hsize : (unpackGram a).size.toNat = a.length := ha.size
  rw [hsize, List.take_left]
  obtain ⟨len, low, c, f, d, kind, sub, id, seq, p, v, rfl⟩ := exists_headerBytes_append ha.long hmagic
  obtain rfl : low = 0 := (sizeField_low len low _).symm.trans hlow
  obtain ⟨rfl, rfl⟩ := (directions_eq_one_iff f d).mp ((discriminatorOf_directions f d kind sub).symm.trans hdirections)
  obtain rfl : sub = 0 := (discriminatorOf_subtype 0 1 kind sub).symm.trans hsubtype
  rw [ha.eq_encodeGram]
  exact encodeGram_unpackGram rfl

end Sys2Proof.Machine
end

section
/-! The outcomes of CLASSIFY, HSREQ and DISPATCH (R121, R123, R126). -/

namespace Sys2Proof.Machine

/-! ### CLASSIFY -/

/-- Fewer than nine received bytes cannot match, and BUF is not read (R121). -/
theorem execClassify_short {s : State} {n : Half} (haux : s.params.hasAux = true) (hn : s.operands.rlen = some n)
    (hcap : n.toNat ≤ s.params.bufCap) (h9 : n.toNat < 9) : execClassify s = endOk (s.setCls (some 0)) := by
  rw [execClassify, needsAux_true _ haux, withReceived_inside _ hn hcap, if_pos h9]

/-- Nine bytes, all of them received, are an acknowledgement exactly where they are "conn_ack:". -/
theorem isHandshakeAck_nine {b : List Byte} {n : Nat} (hl : b.length = 9) (h9 : 9 ≤ n) :
    isHandshakeAck b n = true ↔ b = connAckPrefix := by
  simp [isHandshakeAck, h9, List.take_of_length_le hl.le]

/-- Settles O48: the check of RLEN, the check of the number of bytes, and the comparison of nine held bytes. -/
theorem classifyOutcome : Obligations.ClassifyOutcome := by
  unfold Obligations.ClassifyOutcome
  refine ⟨rfl, fun s n haux hn => ⟨fun hout => ?_, fun hcap h9 => ?_, fun b hcap h9 hl hb => ?_⟩⟩
  · exact (needsAux_true _ haux).trans (withReceived_beyond _ hn hout)
  · exact execClassify_short haux hn hcap h9
  · have hclassify := execClassify_holds haux hn hcap hl.ge hb
    simp only [isHandshakeAck_nine hl h9] at hclassify
    exact hclassify

/-! ### HSREQ and DISPATCH -/

/-- HSREQ stores the request at the start of BUF, where it fits (R123). -/
theorem execHsreq_stores {s : State} {port : Half} (haux : s.params.hasAux = true) (hport : s.operands.port = some port)
    (h11 : 11 ≤ s.params.bufCap) : ∃ m, execHsreq s = endOk ((s.setBuf m).setElen (some 11)) ∧
      StoredAt s.buf m 0 (handshakeRequest port) := by
  have hin : 0 + (handshakeRequest port).length ≤ s.params.bufCap := by rwa [handshakeRequest_length]
  refine ⟨_, ?_, Memory.writeBytes_storedAt s.buf 0 (handshakeRequest port)⟩
  rw [execHsreq, needsAux_true _ haux, hport, withReg_some, putBytes_inside (m := .buf) _ hin, handshakeRequest_length]
  rfl

/-- Settles O49: every build has room for the eleven bytes. -/
theorem hsreqOutcome : Obligations.HsreqOutcome := by
  unfold Obligations.HsreqOutcome
  refine ⟨rfl, fun s port ⟨h11, _, _, _⟩ haux hport => ?_⟩
  exact execHsreq_stores haux hport h11

/-- DISPATCH writes the class of MID (R126). -/
theorem execDispatch_holds {s : State} {mid : Half} (haux : s.params.hasAux = true) (hmid : s.operands.mid = some mid) :
    execDispatch s = endOk (s.setDclass (some (classCode (classOfId mid)))) := by
  rw [execDispatch, needsAux_true _ haux, hmid, withReg_some]

/-- The code of the class of an id compares all 16 bits with the two ids the block knows (R126). -/
theorem classCode_classOfId (id : Half) :
    classCode (classOfId id) = if id = 0x0056 then 2 else if id = 0x0002 then 1 else 0 := by
  rw [classOfId, apply_ite classCode, apply_ite classCode]
  rfl

/-- Settles O50: the only branch is the dispatch table. -/
theorem dispatchOutcome : Obligations.DispatchOutcome := by
  unfold Obligations.DispatchOutcome
  refine ⟨rfl, fun s mid haux hmid => ?_⟩
  rw [← classCode_classOfId]
  exact execDispatch_holds haux hmid

end Sys2Proof.Machine
end

section
/-! The receive path (R130, R157, R158): what the host concludes from the datagram, and what each stretch of the path
needs of the state it starts from. -/

namespace Sys2Proof.Machine

/-! ### What the host concludes -/

/-- The host program reaches its end with the verdict `v`. -/
def Concludes (o : Host.Outcome (State × Verdict) Fault Refusal) (v : Verdict) : Prop := ∃ t, o = .next (t, v)

section

variable {s : State} {v v' : Verdict} {k : Half → State → Host.Outcome (State × Verdict) Fault Refusal}

theorem concludes_next (t : State) (v : Verdict) : Concludes (.next (t, v)) v := ⟨t, rfl⟩

/-- A program that branches concludes as the branch it takes. -/
theorem concludes_ite {c : Prop} [Decidable c] {o o' : Host.Outcome (State × Verdict) Fault Refusal}
    (h : c → Concludes o v) (h' : ¬ c → Concludes o' v') :
    Concludes (if c then o else o') (if c then v else v') := by
  split
  · exact h ‹_›
  · exact h' ‹_›

/-- A program whose first accesses go on concludes as the rest of it does. -/
theorem concludes_andThen {o : Out} {t : State} {k : State → Host.Outcome (State × Verdict) Fault Refusal}
    (h : o = .next t) (hk : Concludes (k t) v) : Concludes (andThen o k) v := by
  rwa [h, andThen_next]

/-- A program that reads a valued register first concludes as the rest of it does. -/
theorem concludes_withRead {r : Reg} {x : Half} (hr : r ≠ .op) (hx : s.reg r = some x)
    (hk : Concludes (k x (s.setHostRead (some x))) v) : Concludes (withRead r s k) v := by
  rwa [withRead_some k hr hx]

theorem concludes_readStatus {x : Byte} (hx : s.status = some x)
    (hk : Concludes (k (x.setWidth 16) (s.setHostRead (some (x.setWidth 16)))) v) :
    Concludes (withRead .status s k) v :=
  concludes_withRead (by decide) (congrArg (Option.map (BitVec.setWidth 16)) hx) hk

end

/-- The verdict on a decoded gram: the class of the id, then the payload's length (R126, R128, R130). -/
def dispatchVerdict (g : Gram) : Verdict :=
  match classOfId g.id with
  | .flightData => if g.payload.length = 24 then .telemetry else .telemetryError
  | .connectAckEcho => .connectAckEcho
  | .unhandled => .unhandled

/-- The verdict on a datagram that is no acknowledgement (R130, R158; without HAS_AUX log 26). -/
def gramVerdict (p : Params) (d : List Byte) : Verdict :=
  match decodeGram p.crc8 p.crc16 d d.length with
  | .error _ => .dropped
  | .ok g => if p.hasAux then dispatchVerdict g else .decoded

/-! ### From the decoded gram on -/

/-- The `G_*` registers hold the gram, and BUF its payload at the place that G_POFF and G_PLEN name. -/
structure DecodedInto (s : State) (g : Gram) : Prop where
  params : s.params.Wf
  aux : s.params.hasAux = true
  gram : s.gram = gramRegs g
  length : g.size - BitVec.ofNat 16 fixedBytes = BitVec.ofNat 16 g.payload.length
  inside : 9 + g.payload.length ≤ s.params.bufCap
  payload : Holds s.buf 9 g.payload

section

variable {s : State} {g : Gram}

/-- FLIGHTDATA of a decoded gram's payload: only its length can be wrong (R128, R130). -/
theorem DecodedInto.flightdata (h : DecodedInto s g) (hstart : s.operands.start = some 9)
    (hcount : s.operands.count = some (BitVec.ofNat 16 g.payload.length)) :
    (g.payload.length ≠ 24 → exec .flightdata s = .next { s with status := some 4, flight := .none }) ∧
    (g.payload.length = 24 → ∃ f : FlightData, exec .flightdata s = .next { s with
      status := some 0
      flight := { height := some f.height, batt := some f.battery, cam := some f.camera } }) := by
  obtain ⟨⟨-, h16, -, -⟩, haux, -, -, hin, hpayload⟩ := h
  have hlen : (BitVec.ofNat 16 g.payload.length).toNat = g.payload.length := by
    rw [BitVec.toNat_ofNat]
    omega
  refine ⟨fun hne => ?_, fun h24 => ?_⟩
  · obtain ⟨-, hflight⟩ := flightdataOutcome
    obtain ⟨-, hmismatch, -⟩ := hflight s _ _ haux hstart hcount
    exact hmismatch (hlen.symm ▸ hin) (hlen.symm ▸ hne)
  · rw [h24] at hcount hin
    exact ⟨_, flightdataComputesTheRecord s _ g.payload _ haux hstart hcount hin hpayload
      (if_neg (not_not.mpr h24))⟩

/-- The host gives FLIGHTDATA what G_POFF and G_PLEN hold, and STATUS is 4 or 0 (R130). -/
theorem DecodedInto.receiveTelemetry_concludes (h : DecodedInto s g) :
    Concludes (receiveTelemetry s) (if g.payload.length = 24 then .telemetry else .telemetryError) := by
  have hpoff : s.reg .gPoff = some 9 := congrArg GramRegs.poff h.gram
  have hplen : s.reg .gPlen = some (BitVec.ofNat 16 g.payload.length) :=
    (congrArg GramRegs.plen h.gram).trans (congrArg some h.length)
  refine concludes_withRead (by decide) hpoff (concludes_withRead (by decide)
    ((State.setHostRead_reg ..).trans hplen) ?_)
  have hissue : DecodedInto (((s.setHostRead (some 9)).setHostRead
    (some (BitVec.ofNat 16 g.payload.length))).setOperands
      { s.operands with op := some 8, start := some 9, count := some (BitVec.ofNat 16 g.payload.length) }) g :=
    { h with }
  obtain ⟨hmismatch, hunpack⟩ := hissue.flightdata rfl rfl
  by_cases h24 : g.payload.length = 24
  · obtain ⟨f, hf⟩ := hunpack h24
    rw [if_pos h24]
    refine concludes_andThen (congrArg (andThen · (runActions [])) hf) (concludes_readStatus rfl ?_)
    rw [if_neg (by decide)]
    refine concludes_andThen rfl ?_  -- the three `F_*` registers hold values, so the host reads them
    exact concludes_next _ _
  · rw [if_neg h24]
    refine concludes_andThen (congrArg (andThen · (runActions [])) (hmismatch h24)) (concludes_readStatus rfl ?_)
    rw [if_pos (by decide)]
    exact concludes_next _ _

/-- DISPATCH gives the class of the gram's id, and only flight data takes the host further (R130). -/
theorem DecodedInto.receiveDispatched_concludes (h : DecodedInto s g) :
    Concludes (receiveDispatched s) (dispatchVerdict g) := by
  have hid : s.reg .gId = some g.id := congrArg GramRegs.id h.gram
  refine concludes_withRead (by decide) hid ?_
  have hdispatch := execDispatch_holds (s := (s.setHostRead (some g.id)).setOperands
    { s.operands with op := some 7, mid := some g.id }) h.aux rfl
  refine concludes_andThen (congrArg (andThen · (runActions [])) hdispatch) (concludes_withRead (by decide) rfl ?_)
  rw [dispatchVerdict]
  cases classOfId g.id with
  | flightData => exact DecodedInto.receiveTelemetry_concludes { h with }
  | connectAckEcho => exact concludes_next _ _
  | unhandled => exact concludes_next _ _

end

/-! ### From the datagram to the decoded gram -/

/-- RLEN is the length of the datagram, and BUF begins with it (R157). -/
structure Received (d : List Byte) (s : State) : Prop where
  params : s.params.Wf
  inside : d.length ≤ s.params.bufCap
  rlen : s.operands.rlen = some (BitVec.ofNat 16 d.length)
  datagram : Holds s.buf 0 d

theorem Holds.drop {m : Memory} {a : Nat} {b : List Byte} (h : Holds m a b) (n : Nat) : Holds m (a + n) (b.drop n) := by
  intro k hk
  rw [List.length_drop] at hk
  rw [byteAt_drop, Nat.add_assoc]
  exact h (n + k) (by omega)

section

variable {d : List Byte} {s : State}

theorem Received.rlen_toNat (h : Received d s) : (BitVec.ofNat 16 d.length).toNat = d.length := by
  obtain ⟨⟨-, h16, -, -⟩, hin, -, -⟩ := h
  rw [BitVec.toNat_ofNat]
  omega

/-- CLASSIFY of a received datagram makes the handshake test (R121), whatever BUF holds after it. -/
theorem Received.classify (h : Received d s) (haux : s.params.hasAux = true) :
    execClassify s = endOk (s.setCls (some (if isHandshakeAck d d.length then 1 else 0))) := by
  have hlen := h.rlen_toNat
  have hcap := hlen.trans_le h.inside
  by_cases h9 : d.length < 9
  · have hno : isHandshakeAck d d.length = false := by simp [isHandshakeAck, h9]
    rw [execClassify_short haux h.rlen hcap (by omega), hno]
    rfl
  · rw [execClassify_holds haux h.rlen hcap (by omega) h.datagram, hlen]

/-- DECODE of a received datagram answers as F_decode does (R87). -/
theorem Received.decode (h : Received d s) :
    execDecode s = answerDecoded s (decodeGram s.params.crc8 s.params.crc16 d d.length) := by
  have hlen := h.rlen_toNat
  rw [execDecode_eq_decodeGram h.rlen (hlen.trans_le h.inside) hlen.symm h.datagram, hlen]

/-- The payload of the gram that a received datagram begins with is held where DECODE says it is (R87). -/
theorem Received.decodedInto {g : Gram} (h : Received d s) (haux : s.params.hasAux = true)
    (hg : decodeGram s.params.crc8 s.params.crc16 d d.length = .ok g) (hregs : s.gram = gramRegs g) :
    DecodedInto s g := by
  obtain ⟨hp, hin, -, hd⟩ := h
  obtain ⟨a, after, rfl, ha, rfl⟩ := exists_isGram_of_decodeGram_ok le_rfl hg
  have ⟨hlong, hsize, _, _⟩ := ha
  have hlen : (unpackGram a).payload.length = a.length - 11 := by
    simp only [unpackGram, payloadOffset, List.length_drop, List.length_take]
    omega
  rw [List.length_append] at hin
  constructor
  case params => exact hp
  case aux => exact haux
  case gram => exact hregs
  case length =>
    rw [hlen]
    exact payloadLength_eq_ofNat ((gramLength_eq a).symm.trans hsize) hlong
  case inside => omega
  case payload =>
    have hheld := ((hd.take a.length).take (a.length - 2)).drop 9
    rw [List.take_left, Nat.zero_add] at hheld
    exact hheld

/-- The host drops the datagram on any STATUS but 0 (R158). -/
theorem Received.receiveGram_concludes (h : Received d s) : Concludes (receiveGram s) (gramVerdict s.params d) := by
  have hissue : Received d (s.setOperands { s.operands with op := some 3 }) := { h with }
  have hdecode := hissue.decode
  rw [gramVerdict]
  cases hd : decodeGram s.params.crc8 s.params.crc16 d d.length with
  | error e =>
    refine concludes_andThen (hdecode.trans (congrArg _ hd)) (concludes_readStatus rfl ?_)
    have hne : (statusOfGramError e).code.setWidth 16 ≠ (0 : Half) := by cases e <;> decide
    rw [if_pos hne]
    exact concludes_next _ _
  | ok g =>
    refine concludes_andThen (hdecode.trans (congrArg _ hd)) (concludes_readStatus rfl ?_)
    rw [if_neg (by decide)]
    exact concludes_ite (c := s.params.hasAux = true)
      (fun haux => DecodedInto.receiveDispatched_concludes (Received.decodedInto { h with } haux hd rfl))
      (fun _ => concludes_next _ _)

end

/-- After the host's two writes the datagram is received (R157). -/
theorem exists_received {s : State} {d : List Byte} (hp : s.params.Wf) (hin : d.length ≤ s.params.bufCap) :
    ∃ t, runActions [.writeBytes .buf 0 d, .setRlen (BitVec.ofNat 16 d.length)] s = .next t ∧
      t.params = s.params ∧ Received d t := by
  have hfits : 0 + d.length ≤ capacity s.params .buf := by simpa using hin
  have hwrite : hostAct (.writeBytes .buf 0 d) s = .next (s.setBuf (Memory.writeBytes s.buf 0 d)) :=
    putBytes_inside .next hfits
  refine ⟨(s.setBuf (Memory.writeBytes s.buf 0 d)).setOperands
    { s.operands with rlen := some (BitVec.ofNat 16 d.length) }, ?_, rfl, hp, hin, rfl, Memory.writeBytes_holds s.buf 0 d⟩
  rw [runActions_cons, hwrite]
  rfl

/-- The receive path makes the handshake test, by CLASSIFY or by the host itself, and then decodes (R130, R157; log 26). -/
theorem receiveDatagram_concludes {s : State} {d : List Byte} (hp : s.params.Wf) (hin : d.length ≤ s.params.bufCap) :
    Concludes (receiveDatagram d s)
      (if isHandshakeAck d d.length then .handshakeComplete else gramVerdict s.params d) := by
  obtain ⟨t, hrun, hparams, ht⟩ := exists_received hp hin
  rw [← hparams]
  refine concludes_andThen hrun ?_
  by_cases haux : t.params.hasAux = true
  · rw [if_pos haux]
    have hissue : Received d (t.setOperands { t.operands with op := some 5 }) := { ht with }
    refine concludes_andThen (hissue.classify haux) (concludes_withRead (by decide) rfl ?_)
    cases isHandshakeAck d d.length with
    | true => exact concludes_next _ _
    | false => exact Received.receiveGram_concludes { ht with }
  · rw [if_neg haux]
    exact concludes_ite (fun _ => concludes_next _ _) (fun _ => ht.receiveGram_concludes)

/-- Settles O56: the obligation's verdict is the handshake test's, or else the gram's. -/
theorem receivePathConcludes : Obligations.ReceivePathConcludes := by
  unfold Obligations.ReceivePathConcludes
  intro s d hp hin
  exact receiveDatagram_concludes hp hin

end Sys2Proof.Machine
end

section
/-! How an operation ends with an error (R66, R146): STATUS alone where the issue was illegal, its own results cleared and the
code in STATUS otherwise; and the idle block (R149). -/

namespace Sys2Proof.Machine

/-! ### The idle block -/

/-- Settles O10: without an access to come a step is the idle block's. -/
theorem idleBlockHolds : Obligations.IdleBlockHolds := fun _ => step_of_idle

/-! ### The ways to end with an error -/

/-- The two ways in which row `i`, issued in state `s`, ends with an error. -/
inductive EndsWithError (i : Instr) (s : State) : State → Prop where
  /-- the issue was illegal, and only STATUS is written (R66) -/
  | illegal : EndsWithError i s (s.setStatus (some Status.illegalOp.code))
  /-- the row's own results `g` are cleared, and the code is written (R146) -/
  | failed (g : OwnResults) (x : Status) (hok : x ≠ .ok) (hill : x ≠ .illegalOp)
      (hclear : ∀ r ∈ registersWritten i, r ≠ .status → (clearResults g s).reg r = none) :
      EndsWithError i s ((clearResults g s).setStatus (some x.code))

theorem one_le_status_code {x : Status} (h : x ≠ .ok) : 1 ≤ x.code.toNat := by
  revert h
  cases x <;> decide

/-- The code 6 is that of IllegalOp alone. -/
theorem status_code_ne_six {x : Status} (h : x ≠ .illegalOp) : x.code ≠ 6 := by
  revert h
  cases x <;> decide

namespace EndsWithError

variable {i : Instr} {s t : State}

theorem exists_status_eq (h : EndsWithError i s t) : ∃ v : Byte, t.status = some v ∧ 1 ≤ v.toNat ∧ v.toNat ≤ 6 := by
  cases h with
  | illegal => exact ⟨6, rfl, by decide, by decide⟩
  | failed g x hok => exact ⟨x.code, rfl, one_le_status_code hok, status_code_le x⟩

theorem mem_eq (h : EndsWithError i s t) (m : MemName) : t.mem m = s.mem m := by
  cases h with
  | illegal => cases m <;> rfl
  | failed g => cases m <;> simp

theorem reg_eq_none (h : EndsWithError i s t) (h6 : t.status ≠ some 6) {r : Reg} (hr : r ∈ registersWritten i)
    (hne : r ≠ .status) : t.reg r = none := by
  cases h with
  | illegal => exact absurd rfl h6
  | failed g x hok hill hclear => exact (State.setStatus_reg _ _ hne).trans (hclear r hr hne)

theorem eq_of_status_six (h : EndsWithError i s t) (h6 : t.status = some 6) : t = { s with status := some 6 } := by
  cases h with
  | illegal => rfl
  | failed g x hok hill => exact absurd (Option.some.inj h6) (status_code_ne_six hill)

end EndsWithError

/-! ### The operations -/

section

variable {s t : State}

theorem execCrc8_error (h : execCrc8 s = .next t) (he : t.status ≠ some 0) : EndsWithError .crc8 s t := by
  obtain ⟨_, _, -, -, ⟨-, rfl⟩ | ⟨_, -, -, -, rfl⟩⟩ := execCrc8_next h
  · exact .failed .crc8 .badOperand (by decide) (by decide) (by simp [registersWritten, State.reg])
  · exact absurd rfl he

theorem execCrc16_error (h : execCrc16 s = .next t) (he : t.status ≠ some 0) : EndsWithError .crc16 s t := by
  obtain ⟨_, _, -, -, ⟨-, rfl⟩ | ⟨_, -, -, -, rfl⟩⟩ := execCrc16_next h
  · exact .failed .crc16 .badOperand (by decide) (by decide) (by simp [registersWritten, State.reg])
  · exact absurd rfl he

theorem execDecode_error (h : execDecode s = .next t) (he : t.status ≠ some 0) : EndsWithError .decode s t := by
  obtain ⟨x, hok, hill, -, rfl⟩ | ⟨_, _, _, _, _, _, -, -, -, -, -, -, -, -, rfl⟩ := execDecode_next h
  · exact .failed .gram x hok hill (by simp [registersWritten, State.reg, GramRegs.none])
  · exact absurd rfl he

theorem execEncode_error (h : execEncode s = .next t) (he : t.status ≠ some 0) : EndsWithError .encode s t := by
  obtain ⟨_, _, _, _, -, -, -, -, ⟨-, rfl⟩ | ⟨_, -, -, -, -, rfl⟩⟩ := execEncode_next h
  · exact .failed .elen .badOperand (by decide) (by decide) (by simp [registersWritten, State.reg])
  · exact absurd rfl he

theorem execClassify_error (h : execClassify s = .next t) (he : t.status ≠ some 0) : EndsWithError .classify s t := by
  obtain ⟨-, rfl⟩ | ⟨-, ⟨_, rfl⟩ | rfl⟩ := execClassify_next h
  · exact .illegal
  · exact absurd rfl he
  · exact .failed .cls .badOperand (by decide) (by decide) (by simp [registersWritten, State.reg])

theorem execHsreq_error (h : execHsreq s = .next t) (he : t.status ≠ some 0) : EndsWithError .hsreq s t := by
  obtain ⟨-, rfl⟩ | ⟨-, _, -, -, rfl⟩ := execHsreq_next h
  · exact .illegal
  · exact absurd rfl he

theorem execDispatch_error (h : execDispatch s = .next t) (he : t.status ≠ some 0) : EndsWithError .dispatch s t := by
  obtain ⟨-, rfl⟩ | ⟨-, _, -, rfl⟩ := execDispatch_next h
  · exact .illegal
  · exact absurd rfl he

theorem execFlightdata_error (h : execFlightdata s = .next t) (he : t.status ≠ some 0) :
    EndsWithError .flightdata s t := by
  obtain ⟨-, rfl⟩ | ⟨-, ⟨x, hok, hill, rfl⟩ | ⟨_, _, _, rfl⟩⟩ := execFlightdata_next h
  · exact .illegal
  · exact .failed .flight x hok hill (by simp [registersWritten, State.reg, FlightRegs.none])
  · exact absurd rfl he

theorem execIllegal_error {code : Byte} (h : execIllegal code s = .next t) : EndsWithError (.illegal code) s t := by
  cases h
  exact .illegal

/-- Every operation of the operation select code that leaves a STATUS other than 0 has ended with an error. -/
theorem issue_error {code : Byte} :
    exec (decodeOp code) s = .next t → t.status ≠ some 0 → EndsWithError (decodeOp code) s t :=
  decodeOp_cases (P := fun i => exec i s = .next t → t.status ≠ some 0 → EndsWithError i s t) execCrc8_error
    execCrc16_error execDecode_error execEncode_error execClassify_error execHsreq_error execDispatch_error
    execFlightdata_error (fun _ h _ => execIllegal_error h) code

end

/-- Settles O22: the frame of the row keeps the other registers, and the way the operation ended with the error says the
rest. -/
theorem errorLeavesNoPartialResult : Obligations.ErrorLeavesNoPartialResult := by
  unfold Obligations.ErrorLeavesNoPartialResult
  intro code s t h he
  have herr := issue_error h he
  exact ⟨herr.exists_status_eq, fun m a => by rw [herr.mem_eq m], (exec_frame h).reg,
    fun h6 _ hr hne => herr.reg_eq_none h6 hr hne, herr.eq_of_status_six⟩

end Sys2Proof.Machine
end
